-- ==== Sys2Proof/Word.lean ====
section
/-! DEFINITION. The widths of the block's values (00_scope.md R8, R9, R12): every value is an
unsigned, uninterpreted bit vector. -/

namespace Sys2Proof

/-- A 32-bit word: pc, a GPR, HI, LO, one Memory entry, the ADDR, DATA and RSP_DATA buses
(00_scope.md R8 `XLEN`, `WORD_BITS`; R9 `ADDR_BITS`, `DATA_BITS`). -/
abbrev Word := BitVec 32

/-- One byte of the BIOS image (10_state.md R31). -/
abbrev Byte := BitVec 8

/-- A command word (00_scope.md R9 `CMD_BITS`; 30_encoding.md R82). -/
abbrev CmdWord := BitVec 16

end Sys2Proof
end

