-- ==== Sys2Proof/Config.lean ====
section
/-! DEFINITION. The parameters of the block (00_scope.md R8, R9; 10_state.md R36). -/

namespace Sys2Proof

/-- Which BIOS_READ guard is built (00_scope.md R9 `BIOS_GUARD`; 41_bios_ops.md R127). -/
inductive BiosGuard where
  /-- A word is returned when its 4 bytes lie inside the image (41_bios_ops.md R124). -/
  | corrected
  /-- The source's guard as written (41_bios_ops.md R125). -/
  | literal
  deriving DecidableEq, Repr

namespace Config

/-- `MEM_WORDS` = 5 × 1024 × 1024 words (00_scope.md R8, R10). -/
abbrev memWords : Nat := 5242880

/-- `BIOS_SIZE` = 512 × 1024 bytes (00_scope.md R8). -/
abbrev biosSize : Nat := 524288

/-- `NGPR` (00_scope.md R8). -/
abbrev numGprs : Nat := 32

/-- `RESET_VECTOR` (00_scope.md R8). -/
def resetVector : Word := 0xBFC00000#32

/-- `INSN_WIDTH`, the step of the PC advance (00_scope.md R8; 30_encoding.md R80). -/
def insnWidth : Word := 4#32

/-- The guard that this hardware is built with (00_scope.md R9; 41_bios_ops.md R127;
90_conflicts.md C1). Log entry 7. -/
def builtBiosGuard : BiosGuard := .corrected

/-- `byteToWordIndex`, OPEN: the map from a byte address to a Memory index that a future fetch stage
will need (00_scope.md R9; 92_eei_decisions.md D6). No rule uses it and no definition of the model
does, so no claim can relate `pc` to the Memory. DESIGN CHOICE (its type), log entry 8. -/
opaque byteToWordIndex : Word → Word

end Config

end Sys2Proof
end

