-- ==== Sys2Proof/Syntax.lean ====
section
/-! DEFINITION. Commands as the requester issues them (30_encoding.md R81) and as the block
understands them: one constructor of `Instr` per row of spec/opcode_table.json (30_encoding.md R83,
R90). -/

namespace Sys2Proof

/-- How the firmware source's byte stream ended (41_bios_ops.md R121). -/
inductive StreamEnd where
  /-- The source ended cleanly. -/
  | eof
  /-- The source failed to deliver further bytes. -/
  | err
  deriving DecidableEq, Repr

/-- The host firmware source's answer `FW` to one BIOS_LOAD (41_bios_ops.md R121). Log entry 18. -/
inductive FwAnswer where
  /-- The firmware source cannot be opened. -/
  | openError
  /-- The source opened, delivered `bytes` in file order, and then ended. -/
  | stream (bytes : List Byte) (ending : StreamEnd)
  deriving DecidableEq, Repr

/-- The four input signals of one command (30_encoding.md R81). -/
structure Command where
  cmd  : CmdWord
  addr : Word
  data : Word
  fw   : FwAnswer
  deriving DecidableEq, Repr

/-- The 16 commands of the opcode map, each with the operands it reads (30_encoding.md R83, R86,
R90). An IDX operand is a `BitVec 5`: every value is a register (R86). -/
inductive Instr where
  | cpuReset
  | clearRegs
  | incPc
  | memWrite (addr data : Word)
  | memRead (addr : Word)
  | memClear
  | biosLoad (fw : FwAnswer)
  | biosRead (addr : Word)
  | gprRead (idx : BitVec 5)
  | gprWrite (idx : BitVec 5) (data : Word)
  | hiRead
  | hiWrite (data : Word)
  | loRead
  | loWrite (data : Word)
  | pcRead
  | pcWrite (data : Word)
  deriving DecidableEq, Repr

end Sys2Proof
end

