-- ==== Sys2Proof/Machine/Operands.lean ====
section
/-! DEFINITION. The fields of a command word (30_encoding.md R82) and the assembly of a command's
operands (30_encoding.md R86): unsigned, used whole, no immediates, no extension, no scaling. -/

namespace Sys2Proof

/-- `OP` = CMD[15:12] (30_encoding.md R82). -/
def opField (cmd : CmdWord) : BitVec 4 := cmd.extractLsb' 12 4

/-- `RSV` = CMD[11:5] (30_encoding.md R82). -/
def rsvField (cmd : CmdWord) : BitVec 7 := cmd.extractLsb' 5 7

/-- `IDX` = CMD[4:0] (30_encoding.md R82). -/
def idxField (cmd : CmdWord) : BitVec 5 := cmd.extractLsb' 0 5

/-- The GPR index of a command: every value 0..31 is valid (30_encoding.md R86). -/
def Command.gprIndex (c : Command) : BitVec 5 := idxField c.cmd

/-- `ADDR` as a Memory word index or a BIOS byte offset: the whole 32-bit value, never truncated to
the width of a valid index (30_encoding.md R86; 92_eei_decisions.md D6, D10). -/
def addrIndex (addr : Word) : Nat := addr.toNat

end Sys2Proof
end

