-- ==== Sys2Proof/WellFormed.lean ====
section
/-! DEFINITION. Which command words are not reserved, in the words of 30_encoding.md R87 and
60_exceptions.md R176 check 2. An `Instr` needs no check of its own: each operand's type holds exactly
the values that 30_encoding.md R86 admits. The decoder is written from the opcode map's match and mask
columns instead (Decode.lean), so the two can be compared. -/

namespace Sys2Proof

/-- `RSV` must be 0000000 (30_encoding.md R82, R87). -/
def rsvIsZero (cmd : CmdWord) : Bool := rsvField cmd == 0#7

/-- `IDX` must be 00000 for every OP but 0x8 (GPR_READ) and 0x9 (GPR_WRITE) (30_encoding.md R82, R87). -/
def idxIsAllowed (cmd : CmdWord) : Bool :=
  idxField cmd == 0#5 || opField cmd == 0x8#4 || opField cmd == 0x9#4

/-- The command word is not reserved (30_encoding.md R87). The values on the ADDR, DATA and FW buses
are not encodings and are never checked. -/
def Command.wellFormed (c : Command) : Bool := rsvIsZero c.cmd && idxIsAllowed c.cmd

end Sys2Proof
end

