-- ==== Sys2Proof/Decode.lean ====
section
/-! DEFINITION. The decoder, from the opcode map's match and mask columns (30_encoding.md R83); the
encoder, from the command word's fields (30_encoding.md R82); and the numbering of a command's bits
that spec/opcode_table.json's words are read with. -/

namespace Sys2Proof

/-- One row of the opcode map (30_encoding.md R83): a command word belongs to the row when its bits
under `mask` are `matchBits`. `build` gives the command its operands from the buses (R86). -/
structure TableRow where
  mnemonic  : String
  matchBits : CmdWord
  mask      : CmdWord
  build     : Command → Instr

/-- Does the command word belong to the row? -/
def TableRow.matches (r : TableRow) (cmd : CmdWord) : Bool := (cmd &&& r.mask) == r.matchBits

/-- The rows of the CPU operations that the source defines (30_encoding.md R83, OP 0x0 to 0x2). -/
def cpuRows : List TableRow := [
  ⟨"CPU_RESET",  0x0000#16, 0xFFFF#16, fun _ => .cpuReset⟩,
  ⟨"CLEAR_REGS", 0x1000#16, 0xFFFF#16, fun _ => .clearRegs⟩,
  ⟨"INC_PC",     0x2000#16, 0xFFFF#16, fun _ => .incPc⟩]

/-- The rows of the Memory operations (30_encoding.md R83, OP 0x3 to 0x5). -/
def memoryRows : List TableRow := [
  ⟨"MEM_WRITE",  0x3000#16, 0xFFFF#16, fun c => .memWrite c.addr c.data⟩,
  ⟨"MEM_READ",   0x4000#16, 0xFFFF#16, fun c => .memRead c.addr⟩,
  ⟨"MEM_CLEAR",  0x5000#16, 0xFFFF#16, fun _ => .memClear⟩]

/-- The rows of the BIOS operations (30_encoding.md R83, OP 0x6 and 0x7). -/
def biosRows : List TableRow := [
  ⟨"BIOS_LOAD",  0x6000#16, 0xFFFF#16, fun c => .biosLoad c.fw⟩,
  ⟨"BIOS_READ",  0x7000#16, 0xFFFF#16, fun c => .biosRead c.addr⟩]

/-- The rows of the register ports (30_encoding.md R83, OP 0x8 to 0xF). -/
def portRows : List TableRow := [
  ⟨"GPR_READ",   0x8000#16, 0xFFE0#16, fun c => .gprRead c.gprIndex⟩,
  ⟨"GPR_WRITE",  0x9000#16, 0xFFE0#16, fun c => .gprWrite c.gprIndex c.data⟩,
  ⟨"HI_READ",    0xA000#16, 0xFFFF#16, fun _ => .hiRead⟩,
  ⟨"HI_WRITE",   0xB000#16, 0xFFFF#16, fun c => .hiWrite c.data⟩,
  ⟨"LO_READ",    0xC000#16, 0xFFFF#16, fun _ => .loRead⟩,
  ⟨"LO_WRITE",   0xD000#16, 0xFFFF#16, fun c => .loWrite c.data⟩,
  ⟨"PC_READ",    0xE000#16, 0xFFFF#16, fun _ => .pcRead⟩,
  ⟨"PC_WRITE",   0xF000#16, 0xFFFF#16, fun c => .pcWrite c.data⟩]

/-- The opcode map (30_encoding.md R83). -/
def opcodeTable : List TableRow := cpuRows ++ memoryRows ++ biosRows ++ portRows

/-- The decoder: the row that the command word belongs to, with its operands; `none` for a reserved
command word (30_encoding.md R83, R87). Total on every command. -/
def decode (c : Command) : Option Instr :=
  (opcodeTable.find? (fun r => r.matches c.cmd)).map (fun r => r.build c)

/-- The command word with the given `OP` and `IDX`, `RSV` zero (30_encoding.md R82). -/
def encodeCmd (op : BitVec 4) (idx : BitVec 5) : CmdWord := op ++ 0#7 ++ idx

/-- A command that reads no bus: ADDR and DATA 0, and FW an answer that nothing reads. -/
def bareCommand (op : BitVec 4) (idx : BitVec 5) : Command :=
  ⟨encodeCmd op idx, 0#32, 0#32, .openError⟩

/-- The encoder: the input signals of a command (30_encoding.md R81, R82, R90), zero on the buses that
it ignores. -/
def encode : Instr → Command
  | .cpuReset          => bareCommand 0x0#4 0#5
  | .clearRegs         => bareCommand 0x1#4 0#5
  | .incPc             => bareCommand 0x2#4 0#5
  | .memWrite addr data => { bareCommand 0x3#4 0#5 with addr := addr, data := data }
  | .memRead addr      => { bareCommand 0x4#4 0#5 with addr := addr }
  | .memClear          => bareCommand 0x5#4 0#5
  | .biosLoad fw       => { bareCommand 0x6#4 0#5 with fw := fw }
  | .biosRead addr     => { bareCommand 0x7#4 0#5 with addr := addr }
  | .gprRead idx       => bareCommand 0x8#4 idx
  | .gprWrite idx data => { bareCommand 0x9#4 idx with data := data }
  | .hiRead            => bareCommand 0xA#4 0#5
  | .hiWrite data      => { bareCommand 0xB#4 0#5 with data := data }
  | .loRead            => bareCommand 0xC#4 0#5
  | .loWrite data      => { bareCommand 0xD#4 0#5 with data := data }
  | .pcRead            => bareCommand 0xE#4 0#5
  | .pcWrite data      => { bareCommand 0xF#4 0#5 with data := data }

/-- The mnemonic of a command, as spec/opcode_table.json spells it (30_encoding.md R83, R90). -/
def Instr.mnemonic : Instr → String
  | .cpuReset     => "CPU_RESET"
  | .clearRegs    => "CLEAR_REGS"
  | .incPc        => "INC_PC"
  | .memWrite _ _ => "MEM_WRITE"
  | .memRead _    => "MEM_READ"
  | .memClear     => "MEM_CLEAR"
  | .biosLoad _   => "BIOS_LOAD"
  | .biosRead _   => "BIOS_READ"
  | .gprRead _    => "GPR_READ"
  | .gprWrite _ _ => "GPR_WRITE"
  | .hiRead       => "HI_READ"
  | .hiWrite _    => "HI_WRITE"
  | .loRead       => "LO_READ"
  | .loWrite _    => "LO_WRITE"
  | .pcRead       => "PC_READ"
  | .pcWrite _    => "PC_WRITE"

/-- The command whose bits are numbered from the command word up: CMD in bits 15..0, then ADDR in
47..16, then DATA in 79..48, of which only the lowest `nbits` bits of `w` are given. FW has no bits;
it is OPEN_ERROR here. DESIGN CHOICE, log entry 10. -/
def commandOfBits (nbits w : Nat) : Command :=
  let v := w % 2 ^ nbits
  ⟨BitVec.ofNat 16 v, BitVec.ofNat 32 (v / 2 ^ 16), BitVec.ofNat 32 (v / 2 ^ 48), .openError⟩

/-- The command that the decoder reads from a word of spec/opcode_table.json. -/
def decodeTableWord (nbits w : Nat) : Option Instr := decode (commandOfBits nbits w)

end Sys2Proof
end

