-- ==== Sys2Proof/Machine/State.lean ====
section
/-! DEFINITION. Everything the spec gives the block (10_state.md), as plain data, and its value at
power-on (10_state.md R35; 70_reset_and_hazards.md R200). -/

namespace Sys2Proof.Machine

open Sys2Proof.Config

/-- The flat Memory `M` (10_state.md R28, R29) as (word index, word) pairs in one canonical form
(`Memory.wf`, Ops.lean): indices strictly rising and below `memWords`, and no pair equal to what an
unlisted index reads as. DESIGN CHOICE, log entry 9. -/
abbrev Memory := List (Nat × Word)

/-- A BIOS image: exactly `biosSize` bytes (10_state.md R31). -/
abbrev BiosImage := Vector Byte biosSize

/-- The status codes (30_encoding.md R85); their numbers are `RspStatus.code` (Flags.lean). -/
inductive RspStatus where
  /-- The command completed normally. -/
  | ok
  /-- MEM_READ out of range, or BIOS_READ failing its guard. -/
  | notPresent
  /-- MEM_WRITE out of range. Fatal. -/
  | fatalWriteOor
  /-- BIOS_LOAD whose firmware source cannot be opened or read. -/
  | biosIoError
  /-- BIOS_LOAD with fewer than `biosSize` bytes available. -/
  | biosSizeMismatch
  /-- A command with no meaning (60_exceptions.md R175). -/
  | refused
  /-- BIOS_READ past the image when BIOS_GUARD is LITERAL. Fatal. -/
  | fatalBiosBeyond
  deriving DecidableEq, Repr

/-- The response buses (30_encoding.md R81, R84): RSP_STATUS, and RSP_DATA held as the source's
optional word: `some v` for the word that a read command returned, and `none` otherwise. The bus
value RSP_DATA is the view `Response.data` (Flags.lean). Log entry 6. -/
structure Response where
  status : RspStatus
  word   : Option Word
  deriving DecidableEq, Repr

/-- The state of the block, its response buses, and the requester's commands. -/
structure State where
  /-- Program counter (10_state.md R23). -/
  pc         : Word
  /-- `x[0]` to `x[31]` (10_state.md R20). `x[0]` is an ordinary register (R21). -/
  gprs       : Vector Word 32
  /-- `HI` (10_state.md R26). -/
  hi         : Word
  /-- `LO` (10_state.md R26). -/
  lo         : Word
  /-- `M` (10_state.md R28). -/
  mem        : Memory
  /-- `B`: ABSENT is `none` (10_state.md R31). STATUS.BIOS_VALID is a view of it (R33). -/
  bios       : Option BiosImage
  /-- STATUS.HALTED (10_state.md R33). -/
  halted     : Bool
  /-- STATUS.REFUSED, sticky (10_state.md R33). -/
  refused    : Bool
  /-- FAULT_CODE (10_state.md R33). -/
  faultCode  : BitVec 3
  /-- FAULT_ADDR (10_state.md R33). -/
  faultAddr  : Word
  /-- FAULT_LIMIT (10_state.md R33). -/
  faultLimit : Word
  /-- The response buses, holding the latest command's response (30_encoding.md R81). -/
  response   : Response
  /-- The build parameter BIOS_GUARD, as an argument that no step changes (41_bios_ops.md R127;
  10_state.md R36). The model's own field, log entry 7. -/
  biosGuard  : BiosGuard
  /-- The commands that the requester will still issue, oldest first (00_scope.md R11;
  30_encoding.md R81). The model's own field, log entry 1. -/
  requests   : List Command
  deriving DecidableEq, Repr

/-- Why the machine stops with a fault. -/
inductive Fault where
  /-- Raised by `step` alone, on a block whose STATUS.HALTED is 1: such a block has no step, and its
  state is never a normal end of a run (60_exceptions.md R173). Safe. -/
  | halted
  deriving DecidableEq, Repr

/-- Why the model gives no meaning. -/
inductive Refusal where
  /-- Raised by an arm of `exec` whose command has no meaning in the model. Safe. No arm raises it. -/
  | notModelled (mnemonic : String)
  deriving DecidableEq, Repr

/-- Power-on (10_state.md R35; 70_reset_and_hazards.md R200): pc at the reset vector, every register
and every Memory word 0, no BIOS, STATUS and FAULT_* 0. The response buses hold OK and no word:
DESIGN CHOICE, log entry 5. The guard is the built one (log entry 7), and no command is issued (log
entry 11). -/
def State.reset : State where
  pc         := resetVector
  gprs       := Vector.replicate 32 0#32
  hi         := 0#32
  lo         := 0#32
  mem        := []
  bios       := none
  halted     := false
  refused    := false
  faultCode  := 0#3
  faultAddr  := 0#32
  faultLimit := 0#32
  response   := ⟨.ok, none⟩
  biosGuard  := builtBiosGuard
  requests   := []

end Sys2Proof.Machine
end

