-- ==== Sys2Proof/Machine/Flags.lean ====
section
/-! DEFINITION. The block has no flags or condition codes of a computation (10_state.md R27). What it
has are status codes (30_encoding.md R85), the STATUS word (10_state.md R33) and the response buses
(30_encoding.md R84), all written here as views of State. -/

namespace Sys2Proof.Machine

/-- The number of a status code (30_encoding.md R85). Code 7 is reserved and never produced. -/
def RspStatus.code : RspStatus → BitVec 3
  | .ok               => 0#3
  | .notPresent       => 1#3
  | .fatalWriteOor    => 2#3
  | .biosIoError      => 3#3
  | .biosSizeMismatch => 4#3
  | .refused          => 5#3
  | .fatalBiosBeyond  => 6#3

/-- Codes 2 and 6 are fatal (30_encoding.md R85). -/
def RspStatus.isFatal : RspStatus → Bool
  | .fatalWriteOor | .fatalBiosBeyond => true
  | .ok | .notPresent | .biosIoError | .biosSizeMismatch | .refused => false

/-- The bus RSP_DATA: the word that was read, and 0 in every other case (30_encoding.md R84). -/
def Response.data (r : Response) : Word := r.word.getD 0#32

/-- The bus RSP_STATUS (30_encoding.md R84). -/
def State.rspStatus (s : State) : BitVec 3 := s.response.status.code

/-- The bus RSP_DATA (30_encoding.md R84). -/
def State.rspData (s : State) : Word := s.response.data

/-- STATUS.BIOS_VALID: 1 exactly when `B` is not ABSENT (10_state.md R33). -/
def State.biosValid (s : State) : Bool := s.bios.isSome

/-- The STATUS output: bit 0 HALTED, bit 1 BIOS_VALID, bit 2 REFUSED, bits 31:3 zero
(10_state.md R33). -/
def State.statusWord (s : State) : Word :=
  0#29 ++ BitVec.ofBool s.refused ++ BitVec.ofBool s.biosValid ++ BitVec.ofBool s.halted

end Sys2Proof.Machine
end

