-- ==== Sys2Proof/Machine/Ops.lean ====
section
/-! DEFINITION. The operations that the meanings are written over: the Memory (10_state.md R28), the
registers, the BIOS image (30_encoding.md R88), the response (30_encoding.md R84), taking a fatal
fault (60_exceptions.md R172) and refusing a command (60_exceptions.md R175). A fault has no return
(60_exceptions.md R174). -/

namespace Sys2Proof.Machine

open Sys2Proof.Config

/-! ### The Memory -/

/-- What an index that the list does not name reads as: power-on and every zero-fill leave 0
(10_state.md R35; 40_memory_ops.md R100). -/
def Memory.unlisted : Word := 0#32

/-- `M[k]` (10_state.md R28). The range of `k` is checked by `memRead`. -/
def Memory.read : Memory → Nat → Word
  | [], _ => Memory.unlisted
  | (j, w) :: rest, k => if j = k then w else Memory.read rest k

/-- Put a pair before the first pair whose index is not below its own. -/
def Memory.insertCell (k : Nat) (v : Word) : Memory → Memory
  | [] => [(k, v)]
  | (j, w) :: rest => if k ≤ j then (k, v) :: (j, w) :: rest else (j, w) :: Memory.insertCell k v rest

/-- `M[k] <- v`, in canonical form: writing what an unlisted index reads as removes the pair. The
range of `k` is checked by `memWrite`. -/
def Memory.write (m : Memory) (k : Nat) (v : Word) : Memory :=
  let others := m.filter (fun c => c.1 != k)
  if v = Memory.unlisted then others else Memory.insertCell k v others

/-- `MemNewEmpty` (40_memory_ops.md R100): every word zero. -/
def Memory.newEmpty : Memory := []

/-- The canonical form from index `low` on. -/
def Memory.wfFrom (low : Nat) : Memory → Bool
  | [] => true
  | (j, w) :: rest =>
    decide (low ≤ j) && decide (j < memWords) && w != Memory.unlisted && Memory.wfFrom (j + 1) rest

/-- The Memory's canonical form: indices strictly rising, every index valid ("addresses outside this
range are never stored into", 10_state.md R28), no pair equal to what an unlisted index reads as. -/
def Memory.wf (m : Memory) : Bool := Memory.wfFrom 0 m

/-- The range check of MEM_WRITE and MEM_READ, at the full 32 bits (40_memory_ops.md R101, R103). -/
def memInRange (addr : Word) : Bool := decide (addrIndex addr < memWords)

/-- `MemRead(k, 4)` (00_scope.md R14; 40_memory_ops.md R103): `none` out of range. -/
def memRead (m : Memory) (addr : Word) : Option Word :=
  if memInRange addr then some (m.read (addrIndex addr)) else none

/-- `MemWrite(k, 4, v)` (00_scope.md R14; 40_memory_ops.md R101): `none` where it raises the fatal
fault. -/
def memWrite (m : Memory) (addr data : Word) : Option Memory :=
  if memInRange addr then some (m.write (addrIndex addr) data) else none

/-! ### The registers -/

/-- Read `x[i]`, also for `i` = 0 (10_state.md R21; 42_cpu_ops.md R143). -/
def readGpr (i : BitVec 5) (s : State) : Word := s.gprs[i.toNat]'i.isLt

/-- Write `x[i]`, also for `i` = 0 (10_state.md R21; 42_cpu_ops.md R144). -/
def writeGpr (i : BitVec 5) (v : Word) (s : State) : State :=
  { s with gprs := s.gprs.set i.toNat v i.isLt }

/-- All 32 GPRs zero (42_cpu_ops.md R140, R141). -/
def zeroGprs (s : State) : State := { s with gprs := Vector.replicate 32 0#32 }

/-- Set `pc` (00_scope.md R14). No alignment is checked (10_state.md R24). -/
def writePc (v : Word) (s : State) : State := { s with pc := v }

/-- Set `HI` (10_state.md R26). -/
def writeHi (v : Word) (s : State) : State := { s with hi := v }

/-- Set `LO` (10_state.md R26). -/
def writeLo (v : Word) (s : State) : State := { s with lo := v }

/-- Replace the Memory (10_state.md R30). -/
def setMemory (m : Memory) (s : State) : State := { s with mem := m }

/-- `pc` advanced by one instruction width, modulo 2^32 (42_cpu_ops.md R142; 10_state.md R25). -/
def advancedPc (pc : Word) : Word := pc + insnWidth

/-! ### The BIOS image -/

/-- `BiosWord(o)` (30_encoding.md R88), the byte at `o` least significant; defined only where its 4
bytes lie inside the image. -/
def biosWord (b : BiosImage) (o : Nat) (h : o + 3 < biosSize) : Word :=
  b[o + 3] ++ b[o + 2] ++ b[o + 1] ++ b[o]

/-- The image of a stream's first `biosSize` bytes; the bytes from `biosSize` on are not stored
(41_bios_ops.md R120, R122). -/
def imageOfStream (bytes : List Byte) (h : biosSize ≤ bytes.length) : BiosImage :=
  ⟨(bytes.take biosSize).toArray, by simp [h]⟩

/-- The image becomes present (41_bios_ops.md R120); STATUS.BIOS_VALID is then 1. -/
def setBios (b : BiosImage) (s : State) : State := { s with bios := some b }

/-! ### The response, a fatal fault, a refusal -/

/-- `respond(status, rdata)` (30_encoding.md R84), `word` the optional word that was read. -/
def respond (status : RspStatus) (word : Option Word) (s : State) : State :=
  { s with response := ⟨status, word⟩ }

/-- `respond(OK, 0)` of a command that reads nothing. -/
def respondDone (s : State) : State := respond .ok none s

/-- `respond(OK, v)` of a read. -/
def respondWord (v : Word) (s : State) : State := respond .ok (some v) s

/-- `respond(NOT_PRESENT, 0)`: no word (30_encoding.md R84). -/
def respondAbsent (s : State) : State := respond .notPresent none s

/-- The causes of a fatal fault (60_exceptions.md R171). -/
inductive FatalFault where
  /-- MEM_WRITE out of range (40_memory_ops.md R101). -/
  | writeOutOfRange
  /-- BIOS_READ past the image when BIOS_GUARD is LITERAL (41_bios_ops.md R125). -/
  | biosBeyond
  deriving DecidableEq, Repr

/-- The status that a fatal fault responds; its code is also FAULT_CODE (60_exceptions.md R171, R172). -/
def FatalFault.status : FatalFault → RspStatus
  | .writeOutOfRange => .fatalWriteOor
  | .biosBeyond      => .fatalBiosBeyond

/-- The exclusive upper bound of the range that the address violated (60_exceptions.md R171). -/
def FatalFault.limit : FatalFault → Word
  | .writeOutOfRange => BitVec.ofNat 32 memWords
  | .biosBeyond      => BitVec.ofNat 32 biosSize

/-- `raise F(addr, limit)` (60_exceptions.md R172): the record, the halt, the response, and nothing
else. Log entry 3. -/
def raiseFatal (f : FatalFault) (addr : Word) (s : State) : State :=
  respond f.status none
    { s with faultCode := f.status.code, faultAddr := addr, faultLimit := f.limit, halted := true }

/-- The reasons of a refusal (60_exceptions.md R175). -/
inductive RefuseReason where
  | reservedEncoding
  | biosNotLoaded
  | biosAlreadyLoaded
  deriving DecidableEq, Repr

/-- `refuse(reason)` (60_exceptions.md R175): the sticky mark, the response, and nothing else; the
block is not halted. No state holds the reason (log entry 17). Log entry 4. -/
def refuse (_reason : RefuseReason) (s : State) : State :=
  respond .refused none { s with refused := true }

end Sys2Proof.Machine
end

