-- ==== Sys2Proof/Machine/Accept.lean ====
section
/-! DEFINITION. Accepting the requester's next command: checks 1 and 2 of 60_exceptions.md R176, in
their order. The BIOS preconditions (check 3) and the command's own rule (check 4) are the meanings. -/

namespace Sys2Proof.Machine

/-- What becomes of the requester's next command before any command's own rule applies. -/
inductive Accepted where
  /-- The block takes no command. -/
  | noStep (f : Fault)
  /-- The step is settled without a command's own rule. -/
  | settled (s : State)
  /-- The command `i` runs its own rule in state `s`. -/
  | run (i : Instr) (s : State)
  deriving DecidableEq, Repr

/-- The oldest request is issued: it leaves the list. -/
def takeRequest (rest : List Command) (s : State) : State := { s with requests := rest }

/-- `accept` (60_exceptions.md R176): a halted block has no step (R173); with no command issued the
block keeps its state (log entry 2); a reserved command word is refused (30_encoding.md R87); any other
command runs its own rule. -/
def accept (s : State) : Accepted :=
  if s.halted then .noStep .halted
  else match s.requests with
    | [] => .settled s
    | c :: rest =>
      match decode c with
      | none   => .settled (refuse .reservedEncoding (takeRequest rest s))
      | some i => .run i (takeRequest rest s)

end Sys2Proof.Machine
end

