-- ==== Sys2Proof/Machine/BiosFamily.lean ====
section
/-! DEFINITION. The BIOS operations (41_bios_ops.md). -/

namespace Sys2Proof.Machine

open Sys2Proof.Config

/-- BIOS_LOAD while `B` is ABSENT: what the firmware source's answer makes of it (41_bios_ops.md R120,
R122, R123; 60_exceptions.md R176). A stream of at least `biosSize` bytes succeeds whatever its end. -/
def loadBios (fw : FwAnswer) (s : State) : State :=
  match fw with
  | .openError => respond .biosIoError none s
  | .stream bytes ending =>
    if h : biosSize ≤ bytes.length then respondDone (setBios (imageOfStream bytes h) s)
    else match ending with
      | .err => respond .biosIoError none s
      | .eof => respond .biosSizeMismatch none s

/-- BIOS_LOAD (41_bios_ops.md R120): refused when an image is present (60_exceptions.md R175). -/
def execBiosLoad (fw : FwAnswer) (s : State) : Host.Outcome State Fault Refusal :=
  match s.bios with
  | some _ => .next (refuse .biosAlreadyLoaded s)
  | none   => .next (loadBios fw s)

/-- BIOS_READ of an image when BIOS_GUARD is CORRECTED (41_bios_ops.md R124): the sum is taken on
integers and does not wrap. -/
def biosReadCorrected (b : BiosImage) (addr : Word) (s : State) : State :=
  if h : addrIndex addr + 4 ≤ biosSize then
    respondWord (biosWord b (addrIndex addr) (by omega)) s
  else respondAbsent s

/-- BIOS_READ of an image when BIOS_GUARD is LITERAL (41_bios_ops.md R125): interior offsets are "not
present", the last word is returned, and an offset past it halts fatally. -/
def biosReadLiteral (b : BiosImage) (addr : Word) (s : State) : State :=
  if addrIndex addr + 4 < biosSize then respondAbsent s
  else if h : addrIndex addr + 4 = biosSize then
    respondWord (biosWord b (addrIndex addr) (by omega)) s
  else raiseFatal .biosBeyond addr s

/-- BIOS_READ of an image under the built guard (41_bios_ops.md R127). -/
def biosReadImage (b : BiosImage) (addr : Word) (s : State) : State :=
  match s.biosGuard with
  | .corrected => biosReadCorrected b addr s
  | .literal   => biosReadLiteral b addr s

/-- BIOS_READ (41_bios_ops.md R124, R125): refused while no image is present (60_exceptions.md R175). -/
def execBiosRead (addr : Word) (s : State) : Host.Outcome State Fault Refusal :=
  match s.bios with
  | none   => .next (refuse .biosNotLoaded s)
  | some b => .next (biosReadImage b addr s)

end Sys2Proof.Machine
end

