-- ==== Sys2Proof/Machine/CpuFamily.lean ====
section
/-! DEFINITION. The CPU operations that the source defines (42_cpu_ops.md section 1). -/

namespace Sys2Proof.Machine

open Sys2Proof.Config

/-- CPU_RESET (42_cpu_ops.md R140): pc, x, HI, LO and M are rebuilt; `B`, STATUS and FAULT_* are
unchanged. -/
def execCpuReset (s : State) : Host.Outcome State Fault Refusal :=
  .next (respondDone
    (setMemory Memory.newEmpty (writeLo 0#32 (writeHi 0#32 (zeroGprs (writePc resetVector s))))))

/-- CLEAR_REGS (42_cpu_ops.md R141): the 32 GPRs zero and nothing else. -/
def execClearRegs (s : State) : Host.Outcome State Fault Refusal :=
  .next (respondDone (zeroGprs s))

/-- INC_PC (42_cpu_ops.md R142): pc + 4 modulo 2^32, whatever pc's alignment. -/
def execIncPc (s : State) : Host.Outcome State Fault Refusal :=
  .next (respondDone (writePc (advancedPc s.pc) s))

end Sys2Proof.Machine
end

