-- ==== Sys2Proof/Machine/MemoryFamily.lean ====
section
/-! DEFINITION. The Memory operations (40_memory_ops.md). -/

namespace Sys2Proof.Machine

/-- MEM_WRITE (40_memory_ops.md R101, R102, R105): store one word, or halt fatally out of range. -/
def execMemWrite (addr data : Word) (s : State) : Host.Outcome State Fault Refusal :=
  match memWrite s.mem addr data with
  | some m => .next (respondDone (setMemory m s))
  | none   => .next (raiseFatal .writeOutOfRange addr s)

/-- MEM_READ (40_memory_ops.md R103, R105): read one word, or answer "not present" out of range. -/
def execMemRead (addr : Word) (s : State) : Host.Outcome State Fault Refusal :=
  match memRead s.mem addr with
  | some v => .next (respondWord v s)
  | none   => .next (respondAbsent s)

/-- MEM_CLEAR (40_memory_ops.md R104): every word zero. -/
def execMemClear (s : State) : Host.Outcome State Fault Refusal :=
  .next (respondDone (setMemory Memory.newEmpty s))

end Sys2Proof.Machine
end

