-- ==== Sys2Proof/Machine/PortFamily.lean ====
section
/-! DEFINITION. The register ports (42_cpu_ops.md section 2): each reads or writes one register whole,
with no side effect on any other element. -/

namespace Sys2Proof.Machine

/-- GPR_READ (42_cpu_ops.md R143). -/
def execGprRead (idx : BitVec 5) (s : State) : Host.Outcome State Fault Refusal :=
  .next (respondWord (readGpr idx s) s)

/-- GPR_WRITE (42_cpu_ops.md R144). -/
def execGprWrite (idx : BitVec 5) (data : Word) (s : State) : Host.Outcome State Fault Refusal :=
  .next (respondDone (writeGpr idx data s))

/-- HI_READ (42_cpu_ops.md R145). -/
def execHiRead (s : State) : Host.Outcome State Fault Refusal :=
  .next (respondWord s.hi s)

/-- HI_WRITE (42_cpu_ops.md R146). -/
def execHiWrite (data : Word) (s : State) : Host.Outcome State Fault Refusal :=
  .next (respondDone (writeHi data s))

/-- LO_READ (42_cpu_ops.md R147). -/
def execLoRead (s : State) : Host.Outcome State Fault Refusal :=
  .next (respondWord s.lo s)

/-- LO_WRITE (42_cpu_ops.md R148). -/
def execLoWrite (data : Word) (s : State) : Host.Outcome State Fault Refusal :=
  .next (respondDone (writeLo data s))

/-- PC_READ (42_cpu_ops.md R149). -/
def execPcRead (s : State) : Host.Outcome State Fault Refusal :=
  .next (respondWord s.pc s)

/-- PC_WRITE (42_cpu_ops.md R150): any value, aligned or not. -/
def execPcWrite (data : Word) (s : State) : Host.Outcome State Fault Refusal :=
  .next (respondDone (writePc data s))

end Sys2Proof.Machine
end

