-- ==== Sys2Proof/Machine/Dispatch.lean ====
section
/-! DEFINITION. One arm per command of the opcode map (30_encoding.md R83). -/

namespace Sys2Proof.Machine

open Sys2Proof

def exec (i : Instr) (s : State) : Host.Outcome State Fault Refusal :=
  match i with
  | .cpuReset => Sys2Proof.Machine.execCpuReset s
  | .clearRegs => Sys2Proof.Machine.execClearRegs s
  | .incPc => Sys2Proof.Machine.execIncPc s
  | .memWrite addr data => Sys2Proof.Machine.execMemWrite addr data s
  | .memRead addr => Sys2Proof.Machine.execMemRead addr s
  | .memClear => Sys2Proof.Machine.execMemClear s
  | .biosLoad fw => Sys2Proof.Machine.execBiosLoad fw s
  | .biosRead addr => Sys2Proof.Machine.execBiosRead addr s
  | .gprRead idx => Sys2Proof.Machine.execGprRead idx s
  | .gprWrite idx data => Sys2Proof.Machine.execGprWrite idx data s
  | .hiRead => Sys2Proof.Machine.execHiRead s
  | .hiWrite data => Sys2Proof.Machine.execHiWrite data s
  | .loRead => Sys2Proof.Machine.execLoRead s
  | .loWrite data => Sys2Proof.Machine.execLoWrite data s
  | .pcRead => Sys2Proof.Machine.execPcRead s
  | .pcWrite data => Sys2Proof.Machine.execPcWrite data s

end Sys2Proof.Machine
end

