-- ==== Sys2Proof/Machine/Step.lean ====
section
/-! DEFINITION. One step of the block is one command (20_memory.md R58, R64). -/

namespace Sys2Proof.Machine

/-- Accept the requester's next command and run it (60_exceptions.md R176). -/
def step (s : State) : Host.Outcome State Fault Refusal :=
  match accept s with
  | .noStep f  => .fault f
  | .settled t => .next t
  | .run i t   => exec i t

/-- `s` with the command of that table word issued before every other request, so that the next step
takes it. The block fetches nothing (10_state.md R36): a command comes from the requester. DESIGN
CHOICE, log entries 10 and 11. -/
def State.withFetchWord (s : State) (nbits w : Nat) : State :=
  { s with requests := commandOfBits nbits w :: s.requests }

end Sys2Proof.Machine
end

