-- ==== Sys2Proof/Safety.lean ====
section
/-! DEFINITION. The terms that claims use: what a legal state of the block is, what a run without a
fatal fault and without a refusal is (60_exceptions.md R173, R175), and what a program may rely on
about the Memory (20_memory.md R65). -/

namespace Sys2Proof.Machine

open Sys2Proof.Config

/-- While the block runs, no fault is recorded and no fatal code is answered (10_state.md R33). -/
def State.NoFaultRecorded (s : State) : Prop :=
  s.faultCode = 0#3 ∧ s.faultAddr = 0#32 ∧ s.faultLimit = 0#32 ∧ s.response.status.isFatal = false

/-- The record of a fatal write (40_memory_ops.md R102; 60_exceptions.md R171, R172). -/
def State.FatalWriteRecorded (s : State) : Prop :=
  s.faultCode = 2#3 ∧ memWords ≤ s.faultAddr.toNat ∧ s.faultLimit.toNat = memWords ∧
    s.response = ⟨.fatalWriteOor, none⟩

/-- The record of a fatal BIOS_READ, which only the LITERAL guard raises, of an image that is present
(41_bios_ops.md R125; 60_exceptions.md R171, R172). -/
def State.FatalReadRecorded (s : State) : Prop :=
  s.faultCode = 6#3 ∧ biosSize < s.faultAddr.toNat + 4 ∧ s.faultLimit.toNat = biosSize ∧
    s.response = ⟨.fatalBiosBeyond, none⟩ ∧ s.biosGuard = .literal ∧ s.bios.isSome = true

/-- The legal states of the block. -/
structure State.Inv (s : State) : Prop where
  /-- The Memory keeps its canonical form and never stores out of range (10_state.md R28). -/
  memory : s.mem.wf = true
  /-- FAULT_* is 0 while the block is not halted (10_state.md R33). -/
  running : s.halted = false → s.NoFaultRecorded
  /-- A halted block holds the record of one of the two fatal faults (60_exceptions.md R172). -/
  halted : s.halted = true → s.FatalWriteRecorded ∨ s.FatalReadRecorded
  /-- Only an OK response carries a word (30_encoding.md R84). -/
  word : s.response.word.isSome = true → s.response.status = .ok
  /-- A REFUSED response leaves its sticky mark (60_exceptions.md R175). -/
  mark : s.response.status = .refused → s.refused = true

/-- The end that every claim about a run takes as a premise: not halted, and nothing refused
(60_exceptions.md R173, R175). -/
abbrev State.Clean (s : State) : Prop := s.halted = false ∧ s.refused = false

/-- The requester issues `cs` and the block takes every one of them: `t` is the state at the end. -/
def Issues (cs : List Command) (s t : State) : Prop :=
  Host.Core.run Sys2Proof.core cs.length { s with requests := cs } = .next t

/-- What `M[k]` holds after the command `i` when it held `w` before it (20_memory.md R65). -/
def wordAfter (k : Nat) (w : Word) : Instr → Word
  | .memWrite addr data => if addr.toNat = k then data else w
  | .memClear | .cpuReset => 0#32
  | .clearRegs | .incPc | .memRead _ | .biosLoad _ | .biosRead _ | .gprRead _ | .gprWrite _ _ | .hiRead
  | .hiWrite _ | .loRead | .loWrite _ | .pcRead | .pcWrite _ => w

/-- What `M[k]` holds after the commands `cs` when it held `w` before them (20_memory.md R65): the DATA
of the latest MEM_WRITE to `k` after the latest MEM_CLEAR or CPU_RESET, 0 if these leave none. A
reserved command word changes nothing. -/
def latestWord (k : Nat) (w : Word) : List Command → Word
  | [] => w
  | c :: cs =>
    match decode c with
    | none   => latestWord k w cs
    | some i => latestWord k (wordAfter k w i) cs

end Sys2Proof.Machine

namespace Sys2Proof

/-- The read commands of 20_memory.md R59. -/
def Instr.isRead : Instr → Bool
  | .memRead _ | .biosRead _ | .gprRead _ | .hiRead | .loRead | .pcRead => true
  | .cpuReset | .clearRegs | .incPc | .memWrite _ _ | .memClear | .biosLoad _ | .gprWrite _ _
  | .hiWrite _ | .loWrite _ | .pcWrite _ => false

/-- The BIOS commands (41_bios_ops.md). -/
def Instr.isBios : Instr → Bool
  | .biosLoad _ | .biosRead _ => true
  | .cpuReset | .clearRegs | .incPc | .memWrite _ _ | .memRead _ | .memClear | .gprRead _
  | .gprWrite _ _ | .hiRead | .hiWrite _ | .loRead | .loWrite _ | .pcRead | .pcWrite _ => false

/-- The commands that reach the Memory (10_state.md R30). -/
def Instr.reachesMemory : Instr → Bool
  | .memWrite _ _ | .memRead _ | .memClear | .cpuReset => true
  | .clearRegs | .incPc | .biosLoad _ | .biosRead _ | .gprRead _ | .gprWrite _ _ | .hiRead
  | .hiWrite _ | .loRead | .loWrite _ | .pcRead | .pcWrite _ => false

/-- The commands that read the ADDR bus (30_encoding.md R81). -/
def Instr.usesAddr : Instr → Bool
  | .memWrite _ _ | .memRead _ | .biosRead _ => true
  | .cpuReset | .clearRegs | .incPc | .memClear | .biosLoad _ | .gprRead _ | .gprWrite _ _ | .hiRead
  | .hiWrite _ | .loRead | .loWrite _ | .pcRead | .pcWrite _ => false

/-- The commands that read the DATA bus (30_encoding.md R81). -/
def Instr.usesData : Instr → Bool
  | .memWrite _ _ | .gprWrite _ _ | .hiWrite _ | .loWrite _ | .pcWrite _ => true
  | .cpuReset | .clearRegs | .incPc | .memRead _ | .memClear | .biosLoad _ | .biosRead _ | .gprRead _
  | .hiRead | .loRead | .pcRead => false

/-- The command that reads the firmware source's answer (30_encoding.md R81). -/
def Instr.usesFw : Instr → Bool
  | .biosLoad _ => true
  | .cpuReset | .clearRegs | .incPc | .memWrite _ _ | .memRead _ | .memClear | .biosRead _ | .gprRead _
  | .gprWrite _ _ | .hiRead | .hiWrite _ | .loRead | .loWrite _ | .pcRead | .pcWrite _ => false

end Sys2Proof
end

