-- ==== Sys2Proof/Certificates/Slice0/Obligations.lean ====
section
/-! DEFINITION. The statements for the provers. Addresses, sizes and codes are written here as the spec
writes them, so that a statement does not lean on the model's own constants. A frame is written
`{ t with f := s.f, … } = s`: every field of State but those named is as it was. The list `requests` of
issued commands, and `Issues` over it, are the model's own form of the requester (log entry 1). -/

open Sys2Proof
open Sys2Proof.Machine

/-! ### Power-on, acceptance, whole-machine rules -/

/-- 70_reset_and_hazards.md R200. -/
def Obligations.PowerOnStateHoldsTheSpecifiedValues : Prop :=
  State.reset.pc = 0xBFC00000#32 ∧ (∀ i, readGpr i State.reset = 0#32) ∧
  State.reset.hi = 0#32 ∧ State.reset.lo = 0#32 ∧ (∀ k, State.reset.mem.read k = 0#32) ∧
  State.reset.bios = none ∧ State.reset.statusWord = 0#32 ∧ State.reset.faultCode = 0#3 ∧
  State.reset.faultAddr = 0#32 ∧ State.reset.faultLimit = 0#32 ∧
  ∀ s : State, s.halted = true → step s = .fault .halted

/-- The invariant of `StepKeepsTheInvariant` holds at power-on (10_state.md R28, R33, R35). Its clauses
about the response buses rest on log entry 5. -/
def Obligations.PowerOnMeetsTheInvariant : Prop := State.reset.Inv

/-- From every legal state, also one that no run reaches, a step gives a legal state (10_state.md R28,
R33; 60_exceptions.md R172, R175). -/
def Obligations.StepKeepsTheInvariant : Prop :=
  ∀ s t : State, s.Inv → step s = .next t → t.Inv

/-- 60_exceptions.md R173: no command is accepted, however many are issued. -/
def Obligations.HaltedBlockTakesNoCommand : Prop :=
  ∀ (s : State) (cs : List Command) (n : Nat), s.halted = true →
    Host.Core.run Sys2Proof.core (n + 1) { s with requests := cs } = .fault .halted

/-- A step runs the decoded command on the state that the command's leaving the requester's list gives
(60_exceptions.md R176). The list is the model's own (log entry 1). -/
def Obligations.StepRunsTheDecodedCommand : Prop :=
  ∀ (s : State) (c : Command) (rest : List Command) (i : Instr),
    s.halted = false → s.requests = c :: rest → decode c = some i →
      step s = exec i { s with requests := rest }

/-- 30_encoding.md R87: a reserved command word is refused, and no other; the other buses play no part. -/
def Obligations.ReservedCommandWordIsRefused : Prop :=
  ∀ (s : State) (c : Command) (rest : List Command), s.halted = false → s.requests = c :: rest →
    let reserved : Prop := c.cmd.extractLsb' 5 7 ≠ 0#7 ∨
      (c.cmd.extractLsb' 0 5 ≠ 0#5 ∧ c.cmd.extractLsb' 12 4 ≠ 0x8#4 ∧ c.cmd.extractLsb' 12 4 ≠ 0x9#4)
    (reserved → step s =
      .next { s with requests := rest, refused := true, response := ⟨.refused, none⟩ }) ∧
    (¬ reserved → ∃ i, decode c = some i ∧ step s = exec i { s with requests := rest })

/-- With no command issued the block keeps its state. The model's choice, log entry 2. -/
def Obligations.IdleBlockKeepsItsState : Prop :=
  ∀ s : State, s.halted = false → s.requests = [] → step s = .next s

/-- A running block has a next state. Where a command is issued, every check of 60_exceptions.md R176 ends
in one, and the step takes that one command (20_memory.md R58). No step changes the build parameter
(10_state.md R36). The model's own: with no command issued the step is log entry 2's; that a refused
command and a fatal fault have a next state is log entries 4 and 3's; the list and its tail are log entry
1's; that the parameter is a field is log entry 7's. -/
def Obligations.RunningBlockAlwaysAnswersItsNextCommand : Prop :=
  ∀ s : State, s.halted = false →
    ∃ t, step s = .next t ∧ t.requests = s.requests.tail ∧ t.biosGuard = s.biosGuard

/-- Commands apply one at a time in issue order (20_memory.md R64), said of the requester's list, which is
the model's own (log entry 1). -/
def Obligations.CommandsApplyOneAtATimeInIssueOrder : Prop :=
  ∀ (cs ds : List Command) (s t : State),
    Issues (cs ++ ds) s t ↔ ∃ u, Issues cs s u ∧ Issues ds u t

/-! ### Encoding -/

/-- Decoding the encoded command gives it back, for every command and every operand (30_encoding.md R82,
R83, R86). -/
def Obligations.DecodeInvertsEncode : Prop := ∀ i : Instr, decode (encode i) = some i

/-- Encoding the decoded command gives back the command word and every bus that the command reads
(30_encoding.md R81, R82, R83). -/
def Obligations.EncodeInvertsDecode : Prop :=
  ∀ (c : Command) (i : Instr), decode c = some i →
    (encode i).cmd = c.cmd ∧ (i.usesAddr = true → (encode i).addr = c.addr) ∧
    (i.usesData = true → (encode i).data = c.data) ∧ (i.usesFw = true → (encode i).fw = c.fw)

/-- A command ignores the buses that it does not read (30_encoding.md R81, R87). -/
def Obligations.IgnoredBusesDoNotMatter : Prop :=
  ∀ (c d : Command) (i : Instr), decode c = some i → d.cmd = c.cmd →
    (i.usesAddr = true → d.addr = c.addr) → (i.usesData = true → d.data = c.data) →
    (i.usesFw = true → d.fw = c.fw) → decode d = some i

/-- Words of spec/opcode_table.json, written out from 30_encoding.md R83, one of each family. -/
def Obligations.OpcodeMapWordsDecode : Prop :=
  decodeTableWord 16 0b0010000000000000 = some .incPc ∧
  decode ⟨0b0011000000000000#16, 7#32, 9#32, .openError⟩ = some (.memWrite 7#32 9#32) ∧
  decode ⟨0b0111000000000000#16, 5#32, 9#32, .openError⟩ = some (.biosRead 5#32) ∧
  decode ⟨0b1001000000010011#16, 7#32, 9#32, .openError⟩ = some (.gprWrite 19#5 9#32) ∧
  decode ⟨0b0010000000000001#16, 7#32, 9#32, .openError⟩ = none

/-! ### Memory -/

/-- 40_memory_ops.md R101, R102. -/
def Obligations.MemWriteStoresInRangeAndHaltsOutOfRange : Prop :=
  (∀ addr data fw, decode ⟨0x3000#16, addr, data, fw⟩ = some (.memWrite addr data)) ∧
  ∀ (s : State) (addr data : Word), s.halted = false →
    (addr.toNat < 5242880 → ∃ t, exec (.memWrite addr data) s = .next t ∧
      t.mem.read addr.toNat = data ∧ (∀ k, k ≠ addr.toNat → t.mem.read k = s.mem.read k) ∧
      t.response = ⟨.ok, none⟩ ∧ { t with mem := s.mem, response := s.response } = s) ∧
    (5242880 ≤ addr.toNat → exec (.memWrite addr data) s = .next
      { s with
        halted := true, faultCode := 2#3, faultAddr := addr, faultLimit := 5242880#32
        response := ⟨.fatalWriteOor, none⟩ })

/-- 40_memory_ops.md R103. -/
def Obligations.MemReadAnswersTheWordOrNotPresent : Prop :=
  (∀ addr data fw, decode ⟨0x4000#16, addr, data, fw⟩ = some (.memRead addr)) ∧
  ∀ (s : State) (addr : Word), s.halted = false →
    (addr.toNat < 5242880 → exec (.memRead addr) s =
      .next { s with response := ⟨.ok, some (s.mem.read addr.toNat)⟩ }) ∧
    (5242880 ≤ addr.toNat → ∃ t, exec (.memRead addr) s = .next t ∧
      t.response = ⟨.notPresent, none⟩ ∧ t.rspData = 0#32 ∧ { t with response := s.response } = s)

/-- 40_memory_ops.md R104. -/
def Obligations.MemClearZeroesEveryWord : Prop :=
  (∀ addr data fw, decode ⟨0x5000#16, addr, data, fw⟩ = some .memClear) ∧
  ∀ s : State, s.halted = false → ∃ t, exec .memClear s = .next t ∧
    (∀ k, t.mem.read k = 0#32) ∧ t.response = ⟨.ok, none⟩ ∧
    { t with mem := s.mem, response := s.response } = s

/-- After any commands that the block took and that left it not halted, a MEM_READ answers the DATA of the
latest MEM_WRITE to its index since the latest zero-fill, and what stood there before where there is none
(20_memory.md R65). A halted block takes no MEM_READ (60_exceptions.md R173), and `exec` of one says
nothing of it (log entry 12). The list of commands is the model's own (log entry 1). -/
def Obligations.MemReadAnswersTheLatestWrite : Prop :=
  ∀ (cs : List Command) (s t : State) (addr : Word), Issues cs s t → t.halted = false →
    addr.toNat < 5242880 → exec (.memRead addr) t = .next
      { t with response := ⟨.ok, some (latestWord addr.toNat (s.mem.read addr.toNat) cs)⟩ }

/-- The Memory is reached only by MEM_WRITE, MEM_READ, MEM_CLEAR and CPU_RESET: every other command does
the same whatever the Memory holds, and leaves it as it is (10_state.md R30). -/
def Obligations.MemoryIsReachedOnlyByItsCommands : Prop :=
  ∀ (i : Instr) (s : State) (m : Memory), i.reachesMemory = false →
    ∃ t, exec i s = .next t ∧ t.mem = s.mem ∧
      exec i { s with mem := m } = .next { t with mem := m }

/-! ### BIOS -/

/-- 41_bios_ops.md R120. -/
def Obligations.BiosLoadBuildsTheImageOrFails : Prop :=
  (∀ addr data fw, decode ⟨0x6000#16, addr, data, fw⟩ = some (.biosLoad fw)) ∧
  ∀ s : State, s.halted = false →
    (s.bios ≠ none → ∀ fw, exec (.biosLoad fw) s =
      .next { s with refused := true, response := ⟨.refused, none⟩ }) ∧
    (s.bios = none →
      exec (.biosLoad .openError) s = .next { s with response := ⟨.biosIoError, none⟩ } ∧
      ∀ bytes : List Byte,
        (524288 ≤ bytes.length → ∀ ending, ∃ (b : BiosImage) (t : State),
          exec (.biosLoad (.stream bytes ending)) s = .next t ∧
          t = { s with bios := some b, response := ⟨.ok, none⟩ } ∧ t.biosValid = true ∧
          ∀ (o : Nat) (_ : o < 524288), some b[o] = bytes[o]?) ∧
        (bytes.length < 524288 →
          exec (.biosLoad (.stream bytes .err)) s = .next { s with response := ⟨.biosIoError, none⟩ } ∧
          exec (.biosLoad (.stream bytes .eof)) s =
            .next { s with response := ⟨.biosSizeMismatch, none⟩ }))

/-- 41_bios_ops.md R122. -/
def Obligations.BiosLoadIgnoresBytesPastTheImage : Prop :=
  ∀ (s : State) (bytes extra : List Byte) (e e' : StreamEnd), bytes.length = 524288 →
    exec (.biosLoad (.stream (bytes ++ extra) e)) s = exec (.biosLoad (.stream bytes e')) s ∧
    (s.bios = none → ∃ t, exec (.biosLoad (.stream (bytes ++ extra) e)) s = .next t ∧
      t.response.status = .ok)

/-- 41_bios_ops.md R123. -/
def Obligations.BiosLoadFailuresAreDistinctAndBuildNothing : Prop :=
  RspStatus.biosIoError.code = 3#3 ∧ RspStatus.biosSizeMismatch.code = 4#3 ∧
  ∀ (s : State) (fw : FwAnswer), s.bios = none → ∃ t, exec (.biosLoad fw) s = .next t ∧
    (fw = .openError → t.response.status = .biosIoError) ∧
    (t.response.status = .biosSizeMismatch → fw ≠ .openError) ∧
    ((t.response.status = .biosIoError ∨ t.response.status = .biosSizeMismatch) ↔ t.bios = none)

/-- 41_bios_ops.md R124. -/
def Obligations.BiosReadUnderTheCorrectedGuard : Prop :=
  (∀ addr data fw, decode ⟨0x7000#16, addr, data, fw⟩ = some (.biosRead addr)) ∧
  ∀ (s : State) (o : Word), s.halted = false → s.biosGuard = .corrected →
    (s.bios = none → exec (.biosRead o) s =
      .next { s with refused := true, response := ⟨.refused, none⟩ }) ∧
    ∀ b, s.bios = some b →
      (∀ h : o.toNat + 3 < 524288, exec (.biosRead o) s =
        .next { s with response := ⟨.ok, some (biosWord b o.toNat h)⟩ }) ∧
      (524288 < o.toNat + 4 → exec (.biosRead o) s = .next { s with response := ⟨.notPresent, none⟩ })

/-- 41_bios_ops.md R125. -/
def Obligations.BiosReadUnderTheLiteralGuard : Prop :=
  (∀ addr data fw, decode ⟨0x7000#16, addr, data, fw⟩ = some (.biosRead addr)) ∧
  ∀ (s : State) (o : Word), s.halted = false → s.biosGuard = .literal →
    (s.bios = none → exec (.biosRead o) s =
      .next { s with refused := true, response := ⟨.refused, none⟩ }) ∧
    ∀ b, s.bios = some b →
      (o.toNat + 4 < 524288 → exec (.biosRead o) s =
        .next { s with response := ⟨.notPresent, none⟩ }) ∧
      (∀ h : o.toNat + 3 < 524288, o.toNat + 4 = 524288 → exec (.biosRead o) s =
        .next { s with response := ⟨.ok, some (biosWord b o.toNat h)⟩ }) ∧
      (524288 < o.toNat + 4 → exec (.biosRead o) s = .next
        { s with
          halted := true, faultCode := 6#3, faultAddr := o, faultLimit := 524288#32
          response := ⟨.fatalBiosBeyond, none⟩ })

/-- A BIOS_READ of an image changes no state in either mode but on the fatal path, and a second one at
the offset answers the same (41_bios_ops.md R126). -/
def Obligations.BiosReadChangesNoStateButOnTheFatalPath : Prop :=
  ∀ (s : State) (o : Word), s.bios ≠ none → s.halted = false → ∃ t, exec (.biosRead o) s = .next t ∧
    (t.halted = true ↔ s.biosGuard = .literal ∧ 524288 < o.toNat + 4) ∧
    (t.halted = false → { t with response := s.response } = s ∧ exec (.biosRead o) t = .next t)

/-- The two guards answer alike only at the last word of the image and while no image is present, and
this hardware is built with the CORRECTED one (41_bios_ops.md R127; log entry 7). -/
def Obligations.BiosGuardsAgreeOnlyAtTheLastWord : Prop :=
  State.reset.biosGuard = .corrected ∧
  ∀ (s : State) (o : Word), ∃ t u,
    exec (.biosRead o) { s with biosGuard := .corrected } = .next t ∧
    exec (.biosRead o) { s with biosGuard := .literal } = .next u ∧
    (t.response = u.response ↔ s.bios = none ∨ o = 524284#32)

/-- 30_encoding.md R88: the shifted sum, and each byte's place. `Config.biosSize` is 524288. -/
def Obligations.BiosWordIsLittleEndian : Prop :=
  ∀ (b : BiosImage) (o : Nat) (h : o + 3 < Config.biosSize),
    biosWord b o h = (b[o].setWidth 32 ||| b[o + 1].setWidth 32 <<< 8 |||
      b[o + 2].setWidth 32 <<< 16 ||| b[o + 3].setWidth 32 <<< 24) ∧
    (biosWord b o h).extractLsb' 0 8 = b[o] ∧ (biosWord b o h).extractLsb' 8 8 = b[o + 1] ∧
    (biosWord b o h).extractLsb' 16 8 = b[o + 2] ∧ (biosWord b o h).extractLsb' 24 8 = b[o + 3]

/-- Words at neighbouring offsets overlap in three bytes (20_memory.md R53). -/
def Obligations.NeighbouringBiosWordsOverlap : Prop :=
  ∀ (b : BiosImage) (o : Nat) (h : o + 3 < 524288) (h' : o + 1 + 3 < 524288),
    (biosWord b (o + 1) h').extractLsb' 0 24 = (biosWord b o h).extractLsb' 8 24

/-- 10_state.md R32: a present image never changes, only BIOS_LOAD makes one, and every other command
but the BIOS ones does the same whatever `B` is, and leaves it as it is. -/
def Obligations.BiosImageIsReadOnlyOnceLoaded : Prop :=
  (∀ (s t : State) (b : BiosImage), s.bios = some b → step s = .next t → t.bios = some b) ∧
  (∀ s t : State, s.bios = none → t.bios ≠ none → step s = .next t →
    ∃ c rest fw, s.requests = c :: rest ∧ decode c = some (.biosLoad fw)) ∧
  ∀ (i : Instr) (s : State) (b : Option BiosImage), i.isBios = false →
    ∃ t, exec i s = .next t ∧ t.bios = s.bios ∧
      exec i { s with bios := b } = .next { t with bios := b }

/-! ### CPU operations and register ports -/

/-- 42_cpu_ops.md R140. -/
def Obligations.CpuResetRebuildsTheCpuAndTheMemory : Prop :=
  (∀ addr data fw, decode ⟨0x0000#16, addr, data, fw⟩ = some .cpuReset) ∧
  ∀ s : State, s.halted = false → ∃ t, exec .cpuReset s = .next t ∧
    t.pc = 0xBFC00000#32 ∧ (∀ i, readGpr i t = 0#32) ∧ t.hi = 0#32 ∧ t.lo = 0#32 ∧
    (∀ k, t.mem.read k = 0#32) ∧ t.response = ⟨.ok, none⟩ ∧
    { t with pc := s.pc, gprs := s.gprs, hi := s.hi, lo := s.lo, mem := s.mem
             response := s.response } = s

/-- 42_cpu_ops.md R141. -/
def Obligations.ClearRegsZeroesTheGprsAndNothingElse : Prop :=
  (∀ addr data fw, decode ⟨0x1000#16, addr, data, fw⟩ = some .clearRegs) ∧
  ∀ s : State, s.halted = false → ∃ t, exec .clearRegs s = .next t ∧
    (∀ i, readGpr i t = 0#32) ∧ t.response = ⟨.ok, none⟩ ∧
    { t with gprs := s.gprs, response := s.response } = s

/-- 42_cpu_ops.md R142. -/
def Obligations.IncPcAddsFourModuloTheAddressSpace : Prop :=
  (∀ addr data fw, decode ⟨0x2000#16, addr, data, fw⟩ = some .incPc) ∧
  ∀ s : State, s.halted = false → ∃ t, exec .incPc s = .next t ∧
    t.pc.toNat = (s.pc.toNat + 4) % 2 ^ 32 ∧ (s.pc = 0xFFFFFFFC#32 → t.pc = 0#32) ∧
    t.response = ⟨.ok, none⟩ ∧ { t with pc := s.pc, response := s.response } = s

/-- `n` consecutive INC_PC commands advance pc by 4 * n modulo 2^32 and change nothing else
(42_cpu_ops.md R142; 30_encoding.md R91). -/
def Obligations.RepeatedIncPcAdvancesPcByFourEach : Prop :=
  ∀ (n : Nat) (s : State), s.halted = false →
    ∃ t, Issues (List.replicate n ⟨0x2000#16, 0#32, 0#32, .openError⟩) s t ∧
      t.pc.toNat = (s.pc.toNat + 4 * n) % 2 ^ 32 ∧ t.requests = [] ∧
      { t with pc := s.pc, response := s.response, requests := s.requests } = s

/-- pc stays a multiple of 4 through any commands in which no PC_WRITE has a DATA that is none
(10_state.md R24). -/
def Obligations.PcStaysAlignedUnlessPcWriteBreaksIt : Prop :=
  ∀ (cs : List Command) (s t : State), s.pc.toNat % 4 = 0 →
    (∀ c ∈ cs, ∀ v, decode c = some (.pcWrite v) → v.toNat % 4 = 0) →
    Issues cs s t → t.pc.toNat % 4 = 0

/-- 42_cpu_ops.md R143. -/
def Obligations.GprReadAnswersTheRegister : Prop :=
  (∀ (i : BitVec 5) (addr data : Word) (fw : FwAnswer),
    decode ⟨0b10000000000#11 ++ i, addr, data, fw⟩ = some (.gprRead i)) ∧
  ∀ (s : State) (i : BitVec 5), s.halted = false →
    exec (.gprRead i) s = .next { s with response := ⟨.ok, some (readGpr i s)⟩ }

/-- 42_cpu_ops.md R144. -/
def Obligations.GprWriteStoresTheRegister : Prop :=
  (∀ (i : BitVec 5) (addr data : Word) (fw : FwAnswer),
    decode ⟨0b10010000000#11 ++ i, addr, data, fw⟩ = some (.gprWrite i data)) ∧
  ∀ (s : State) (i : BitVec 5) (v : Word), s.halted = false →
    ∃ t, exec (.gprWrite i v) s = .next t ∧ readGpr i t = v ∧
      (∀ j, j ≠ i → readGpr j t = readGpr j s) ∧ t.response = ⟨.ok, none⟩ ∧
      { t with gprs := s.gprs, response := s.response } = s

/-- 10_state.md R21: what is written to x[0] is read back. -/
def Obligations.GprZeroIsAnOrdinaryRegister : Prop :=
  ∀ (s : State) (v : Word), s.halted = false → ∃ t, exec (.gprWrite 0#5 v) s = .next t ∧
    exec (.gprRead 0#5) t = .next { t with response := ⟨.ok, some v⟩ }

/-- 42_cpu_ops.md R145, R146. -/
def Obligations.HiPortsReadAndWriteHi : Prop :=
  (∀ addr data fw, decode ⟨0xA000#16, addr, data, fw⟩ = some .hiRead) ∧
  (∀ addr data fw, decode ⟨0xB000#16, addr, data, fw⟩ = some (.hiWrite data)) ∧
  ∀ (s : State) (v : Word), s.halted = false →
    exec .hiRead s = .next { s with response := ⟨.ok, some s.hi⟩ } ∧
    exec (.hiWrite v) s = .next { s with hi := v, response := ⟨.ok, none⟩ }

/-- 42_cpu_ops.md R147, R148. -/
def Obligations.LoPortsReadAndWriteLo : Prop :=
  (∀ addr data fw, decode ⟨0xC000#16, addr, data, fw⟩ = some .loRead) ∧
  (∀ addr data fw, decode ⟨0xD000#16, addr, data, fw⟩ = some (.loWrite data)) ∧
  ∀ (s : State) (v : Word), s.halted = false →
    exec .loRead s = .next { s with response := ⟨.ok, some s.lo⟩ } ∧
    exec (.loWrite v) s = .next { s with lo := v, response := ⟨.ok, none⟩ }

/-- 42_cpu_ops.md R149, R150: PC_WRITE stores any value, and only it, INC_PC and CPU_RESET change pc. -/
def Obligations.PcPortsReadAndWritePc : Prop :=
  (∀ addr data fw, decode ⟨0xE000#16, addr, data, fw⟩ = some .pcRead) ∧
  (∀ addr data fw, decode ⟨0xF000#16, addr, data, fw⟩ = some (.pcWrite data)) ∧
  (∀ (s : State) (v : Word), s.halted = false →
    exec .pcRead s = .next { s with response := ⟨.ok, some s.pc⟩ } ∧
    exec (.pcWrite v) s = .next { s with pc := v, response := ⟨.ok, none⟩ }) ∧
  ∀ (i : Instr) (s t : State), exec i s = .next t → t.pc ≠ s.pc →
    i = .incPc ∨ i = .cpuReset ∨ ∃ v, i = .pcWrite v

/-- HI, LO and the GPRs change only by their own write ports, CLEAR_REGS (the GPRs) and CPU_RESET
(10_state.md R22, R26). -/
def Obligations.RegistersChangeOnlyByTheirOwnCommands : Prop :=
  ∀ (i : Instr) (s t : State), exec i s = .next t → i ≠ .cpuReset →
    (t.hi ≠ s.hi → ∃ v, i = .hiWrite v) ∧ (t.lo ≠ s.lo → ∃ v, i = .loWrite v) ∧
    ∀ j, readGpr j t ≠ readGpr j s → i = .clearRegs ∨ ∃ v, i = .gprWrite j v

/-- 70_reset_and_hazards.md R203: a read right after a write to the same element answers the value
written. -/
def Obligations.ReadRightAfterWriteSeesTheValue : Prop :=
  ∀ (s : State) (v : Word),
    (∀ i, ∃ t u, exec (.gprWrite i v) s = .next t ∧ exec (.gprRead i) t = .next u ∧
      u.response = ⟨.ok, some v⟩) ∧
    (∃ t u, exec (.hiWrite v) s = .next t ∧ exec .hiRead t = .next u ∧
      u.response = ⟨.ok, some v⟩) ∧
    (∃ t u, exec (.loWrite v) s = .next t ∧ exec .loRead t = .next u ∧
      u.response = ⟨.ok, some v⟩) ∧
    (∃ t u, exec (.pcWrite v) s = .next t ∧ exec .pcRead t = .next u ∧
      u.response = ⟨.ok, some v⟩) ∧
    ∀ addr : Word, addr.toNat < 5242880 → ∃ t u, exec (.memWrite addr v) s = .next t ∧
      exec (.memRead addr) t = .next u ∧ u.response = ⟨.ok, some v⟩

/-- The six read commands change nothing but the response buses, and a second read answers the same;
BIOS_READ needs an image, and under the LITERAL guard an offset not past the last word (20_memory.md
R59). -/
def Obligations.ReadsHaveNoSideEffect : Prop :=
  ∀ (i : Instr) (s : State), i.isRead = true →
    (∀ o, i = .biosRead o → s.bios ≠ none ∧ (s.biosGuard = .literal → o.toNat ≤ 524284)) →
    ∃ t, exec i s = .next t ∧ { t with response := s.response } = s ∧ exec i t = .next t

/-- CPU_RESET and BIOS_LOAD may come in either order: both leave the same block but for the response
buses, which hold the later command's response (70_reset_and_hazards.md R202). -/
def Obligations.CpuResetAndBiosLoadCommute : Prop :=
  ∀ (s : State) (fw : FwAnswer), ∃ t t' u u',
    exec .cpuReset s = .next t ∧ exec (.biosLoad fw) t = .next t' ∧
    exec (.biosLoad fw) s = .next u ∧ exec .cpuReset u = .next u' ∧
    t' = { u' with response := u.response }

/-! ### Outcomes -/

/-- 60_exceptions.md R172: the two commands that take a fatal fault, and the whole of what it does. -/
def Obligations.FatalFaultIsRecordedAndPrecise : Prop :=
  ∀ (i : Instr) (s t : State), s.halted = false → exec i s = .next t → t.halted = true →
    (∃ addr data, i = .memWrite addr data ∧ 5242880 ≤ addr.toNat ∧
      t = { s with
            halted := true, faultCode := 2#3, faultAddr := addr, faultLimit := 5242880#32
            response := ⟨.fatalWriteOor, none⟩ }) ∨
    (∃ addr, i = .biosRead addr ∧ s.biosGuard = .literal ∧ s.bios ≠ none ∧ 524288 < addr.toNat + 4 ∧
      t = { s with
            halted := true, faultCode := 6#3, faultAddr := addr, faultLimit := 524288#32
            response := ⟨.fatalBiosBeyond, none⟩ })

/-- 60_exceptions.md R175: the three reasons of a refusal, and the whole of what it does; the mark is
sticky. -/
def Obligations.RefusalHasThreeReasonsAndOneEffect : Prop :=
  ∀ (s t : State) (c : Command) (rest : List Command), s.requests = c :: rest → step s = .next t →
    (t.response.status = .refused ↔
      decode c = none ∨ (∃ o, decode c = some (.biosRead o) ∧ s.bios = none) ∨
      ∃ fw, decode c = some (.biosLoad fw) ∧ s.bios ≠ none) ∧
    (t.response.status = .refused →
      t = { s with requests := rest, refused := true, response := ⟨.refused, none⟩ }) ∧
    (s.refused = true → t.refused = true)

/-- No commands clear STATUS.REFUSED or STATUS.BIOS_VALID, a run that ends not halted was never halted
and leaves FAULT_* as it was (10_state.md R33). -/
def Obligations.StatusBitsAreClearedByNothing : Prop :=
  ∀ (cs : List Command) (s t : State), Issues cs s t →
    (s.refused = true → t.refused = true) ∧ (s.biosValid = true → t.biosValid = true) ∧
    (s.halted = true → t.halted = true) ∧
    (t.halted = false →
      t.faultCode = s.faultCode ∧ t.faultAddr = s.faultAddr ∧ t.faultLimit = s.faultLimit)

/-- STATUS holds HALTED in bit 0, BIOS_VALID in bit 1, which is 1 exactly when an image is present,
REFUSED in bit 2, and zeros above (10_state.md R33). -/
def Obligations.StatusWordIsMadeOfItsThreeBits : Prop :=
  ∀ s : State, s.statusWord.toNat =
    s.halted.toNat + 2 * (if s.bios = none then 0 else 1) + 4 * s.refused.toNat

/-- 30_encoding.md R85: which command produces which code, and the codes' numbers; a fatal code halts the
block. -/
def Obligations.StatusCodesAreProducedByTheirOwnCommands : Prop :=
  ∀ (s t : State) (c : Command) (rest : List Command), s.requests = c :: rest → step s = .next t →
    (t.rspStatus = 0#3 ↔ t.response.status = .ok) ∧
    (t.rspStatus = 1#3 ↔ (∃ a, decode c = some (.memRead a) ∧ 5242880 ≤ a.toNat) ∨
      ∃ o, decode c = some (.biosRead o) ∧ s.bios ≠ none ∧
        ((s.biosGuard = .corrected ∧ 524288 < o.toNat + 4) ∨
          (s.biosGuard = .literal ∧ o.toNat + 4 < 524288))) ∧
    (t.rspStatus = 2#3 ↔ ∃ a v, decode c = some (.memWrite a v) ∧ 5242880 ≤ a.toNat) ∧
    (t.rspStatus = 3#3 ↔ s.bios = none ∧ ∃ fw, decode c = some (.biosLoad fw) ∧
      (fw = .openError ∨ ∃ bytes, fw = .stream bytes .err ∧ bytes.length < 524288)) ∧
    (t.rspStatus = 4#3 ↔ s.bios = none ∧
      ∃ bytes, decode c = some (.biosLoad (.stream bytes .eof)) ∧ bytes.length < 524288) ∧
    (t.rspStatus = 5#3 ↔ decode c = none ∨ (∃ o, decode c = some (.biosRead o) ∧ s.bios = none) ∨
      ∃ fw, decode c = some (.biosLoad fw) ∧ s.bios ≠ none) ∧
    (t.rspStatus = 6#3 ↔ s.biosGuard = .literal ∧ s.bios ≠ none ∧
      ∃ o, decode c = some (.biosRead o) ∧ 524288 < o.toNat + 4) ∧
    t.rspStatus ≠ 7#3 ∧ (t.rspStatus = 2#3 ∨ t.rspStatus = 6#3 ↔ t.halted = true)

/-- 30_encoding.md R84: a word is answered by a read that completes, and by nothing else; RSP_DATA is 0
in every other case. -/
def Obligations.ResponseCarriesAWordOnlyForACompletedRead : Prop :=
  ∀ (s t : State) (c : Command) (rest : List Command), s.requests = c :: rest → step s = .next t →
    let completedRead : Prop :=
      t.response.status = .ok ∧ ∃ i, decode c = some i ∧ i.isRead = true
    (completedRead → t.response.word = some t.rspData) ∧
    (¬ completedRead → t.response.word = none ∧ t.rspData = 0#32)
end

