-- ==== Sys2Proof/Laws/State.lean ====
section
/-! SUPPORT. What each update of State leaves in each field: one lemma per field per update, true by
`rfl`, so that no later proof unfolds a record update. -/

namespace Sys2Proof.Machine

variable (s : State)

/-! ### writeGpr -/

@[simp] theorem writeGpr_pc (i : BitVec 5) (v : Word) : (writeGpr i v s).pc = s.pc := rfl
@[simp] theorem writeGpr_gprs (i : BitVec 5) (v : Word) : (writeGpr i v s).gprs = s.gprs.set i.toNat v i.isLt := rfl
@[simp] theorem writeGpr_hi (i : BitVec 5) (v : Word) : (writeGpr i v s).hi = s.hi := rfl
@[simp] theorem writeGpr_lo (i : BitVec 5) (v : Word) : (writeGpr i v s).lo = s.lo := rfl
@[simp] theorem writeGpr_mem (i : BitVec 5) (v : Word) : (writeGpr i v s).mem = s.mem := rfl
@[simp] theorem writeGpr_bios (i : BitVec 5) (v : Word) : (writeGpr i v s).bios = s.bios := rfl
@[simp] theorem writeGpr_halted (i : BitVec 5) (v : Word) : (writeGpr i v s).halted = s.halted := rfl
@[simp] theorem writeGpr_refused (i : BitVec 5) (v : Word) : (writeGpr i v s).refused = s.refused := rfl
@[simp] theorem writeGpr_faultCode (i : BitVec 5) (v : Word) : (writeGpr i v s).faultCode = s.faultCode := rfl
@[simp] theorem writeGpr_faultAddr (i : BitVec 5) (v : Word) : (writeGpr i v s).faultAddr = s.faultAddr := rfl
@[simp] theorem writeGpr_faultLimit (i : BitVec 5) (v : Word) : (writeGpr i v s).faultLimit = s.faultLimit := rfl
@[simp] theorem writeGpr_response (i : BitVec 5) (v : Word) : (writeGpr i v s).response = s.response := rfl
@[simp] theorem writeGpr_biosGuard (i : BitVec 5) (v : Word) : (writeGpr i v s).biosGuard = s.biosGuard := rfl
@[simp] theorem writeGpr_requests (i : BitVec 5) (v : Word) : (writeGpr i v s).requests = s.requests := rfl

/-! ### zeroGprs -/

@[simp] theorem zeroGprs_pc : (zeroGprs s).pc = s.pc := rfl
@[simp] theorem zeroGprs_gprs : (zeroGprs s).gprs = Vector.replicate 32 0#32 := rfl
@[simp] theorem zeroGprs_hi : (zeroGprs s).hi = s.hi := rfl
@[simp] theorem zeroGprs_lo : (zeroGprs s).lo = s.lo := rfl
@[simp] theorem zeroGprs_mem : (zeroGprs s).mem = s.mem := rfl
@[simp] theorem zeroGprs_bios : (zeroGprs s).bios = s.bios := rfl
@[simp] theorem zeroGprs_halted : (zeroGprs s).halted = s.halted := rfl
@[simp] theorem zeroGprs_refused : (zeroGprs s).refused = s.refused := rfl
@[simp] theorem zeroGprs_faultCode : (zeroGprs s).faultCode = s.faultCode := rfl
@[simp] theorem zeroGprs_faultAddr : (zeroGprs s).faultAddr = s.faultAddr := rfl
@[simp] theorem zeroGprs_faultLimit : (zeroGprs s).faultLimit = s.faultLimit := rfl
@[simp] theorem zeroGprs_response : (zeroGprs s).response = s.response := rfl
@[simp] theorem zeroGprs_biosGuard : (zeroGprs s).biosGuard = s.biosGuard := rfl
@[simp] theorem zeroGprs_requests : (zeroGprs s).requests = s.requests := rfl

/-! ### writePc -/

@[simp] theorem writePc_pc (v : Word) : (writePc v s).pc = v := rfl
@[simp] theorem writePc_gprs (v : Word) : (writePc v s).gprs = s.gprs := rfl
@[simp] theorem writePc_hi (v : Word) : (writePc v s).hi = s.hi := rfl
@[simp] theorem writePc_lo (v : Word) : (writePc v s).lo = s.lo := rfl
@[simp] theorem writePc_mem (v : Word) : (writePc v s).mem = s.mem := rfl
@[simp] theorem writePc_bios (v : Word) : (writePc v s).bios = s.bios := rfl
@[simp] theorem writePc_halted (v : Word) : (writePc v s).halted = s.halted := rfl
@[simp] theorem writePc_refused (v : Word) : (writePc v s).refused = s.refused := rfl
@[simp] theorem writePc_faultCode (v : Word) : (writePc v s).faultCode = s.faultCode := rfl
@[simp] theorem writePc_faultAddr (v : Word) : (writePc v s).faultAddr = s.faultAddr := rfl
@[simp] theorem writePc_faultLimit (v : Word) : (writePc v s).faultLimit = s.faultLimit := rfl
@[simp] theorem writePc_response (v : Word) : (writePc v s).response = s.response := rfl
@[simp] theorem writePc_biosGuard (v : Word) : (writePc v s).biosGuard = s.biosGuard := rfl
@[simp] theorem writePc_requests (v : Word) : (writePc v s).requests = s.requests := rfl

/-! ### writeHi -/

@[simp] theorem writeHi_pc (v : Word) : (writeHi v s).pc = s.pc := rfl
@[simp] theorem writeHi_gprs (v : Word) : (writeHi v s).gprs = s.gprs := rfl
@[simp] theorem writeHi_hi (v : Word) : (writeHi v s).hi = v := rfl
@[simp] theorem writeHi_lo (v : Word) : (writeHi v s).lo = s.lo := rfl
@[simp] theorem writeHi_mem (v : Word) : (writeHi v s).mem = s.mem := rfl
@[simp] theorem writeHi_bios (v : Word) : (writeHi v s).bios = s.bios := rfl
@[simp] theorem writeHi_halted (v : Word) : (writeHi v s).halted = s.halted := rfl
@[simp] theorem writeHi_refused (v : Word) : (writeHi v s).refused = s.refused := rfl
@[simp] theorem writeHi_faultCode (v : Word) : (writeHi v s).faultCode = s.faultCode := rfl
@[simp] theorem writeHi_faultAddr (v : Word) : (writeHi v s).faultAddr = s.faultAddr := rfl
@[simp] theorem writeHi_faultLimit (v : Word) : (writeHi v s).faultLimit = s.faultLimit := rfl
@[simp] theorem writeHi_response (v : Word) : (writeHi v s).response = s.response := rfl
@[simp] theorem writeHi_biosGuard (v : Word) : (writeHi v s).biosGuard = s.biosGuard := rfl
@[simp] theorem writeHi_requests (v : Word) : (writeHi v s).requests = s.requests := rfl

/-! ### writeLo -/

@[simp] theorem writeLo_pc (v : Word) : (writeLo v s).pc = s.pc := rfl
@[simp] theorem writeLo_gprs (v : Word) : (writeLo v s).gprs = s.gprs := rfl
@[simp] theorem writeLo_hi (v : Word) : (writeLo v s).hi = s.hi := rfl
@[simp] theorem writeLo_lo (v : Word) : (writeLo v s).lo = v := rfl
@[simp] theorem writeLo_mem (v : Word) : (writeLo v s).mem = s.mem := rfl
@[simp] theorem writeLo_bios (v : Word) : (writeLo v s).bios = s.bios := rfl
@[simp] theorem writeLo_halted (v : Word) : (writeLo v s).halted = s.halted := rfl
@[simp] theorem writeLo_refused (v : Word) : (writeLo v s).refused = s.refused := rfl
@[simp] theorem writeLo_faultCode (v : Word) : (writeLo v s).faultCode = s.faultCode := rfl
@[simp] theorem writeLo_faultAddr (v : Word) : (writeLo v s).faultAddr = s.faultAddr := rfl
@[simp] theorem writeLo_faultLimit (v : Word) : (writeLo v s).faultLimit = s.faultLimit := rfl
@[simp] theorem writeLo_response (v : Word) : (writeLo v s).response = s.response := rfl
@[simp] theorem writeLo_biosGuard (v : Word) : (writeLo v s).biosGuard = s.biosGuard := rfl
@[simp] theorem writeLo_requests (v : Word) : (writeLo v s).requests = s.requests := rfl

/-! ### setMemory -/

@[simp] theorem setMemory_pc (m : Memory) : (setMemory m s).pc = s.pc := rfl
@[simp] theorem setMemory_gprs (m : Memory) : (setMemory m s).gprs = s.gprs := rfl
@[simp] theorem setMemory_hi (m : Memory) : (setMemory m s).hi = s.hi := rfl
@[simp] theorem setMemory_lo (m : Memory) : (setMemory m s).lo = s.lo := rfl
@[simp] theorem setMemory_mem (m : Memory) : (setMemory m s).mem = m := rfl
@[simp] theorem setMemory_bios (m : Memory) : (setMemory m s).bios = s.bios := rfl
@[simp] theorem setMemory_halted (m : Memory) : (setMemory m s).halted = s.halted := rfl
@[simp] theorem setMemory_refused (m : Memory) : (setMemory m s).refused = s.refused := rfl
@[simp] theorem setMemory_faultCode (m : Memory) : (setMemory m s).faultCode = s.faultCode := rfl
@[simp] theorem setMemory_faultAddr (m : Memory) : (setMemory m s).faultAddr = s.faultAddr := rfl
@[simp] theorem setMemory_faultLimit (m : Memory) : (setMemory m s).faultLimit = s.faultLimit := rfl
@[simp] theorem setMemory_response (m : Memory) : (setMemory m s).response = s.response := rfl
@[simp] theorem setMemory_biosGuard (m : Memory) : (setMemory m s).biosGuard = s.biosGuard := rfl
@[simp] theorem setMemory_requests (m : Memory) : (setMemory m s).requests = s.requests := rfl

/-! ### setBios -/

@[simp] theorem setBios_pc (b : BiosImage) : (setBios b s).pc = s.pc := rfl
@[simp] theorem setBios_gprs (b : BiosImage) : (setBios b s).gprs = s.gprs := rfl
@[simp] theorem setBios_hi (b : BiosImage) : (setBios b s).hi = s.hi := rfl
@[simp] theorem setBios_lo (b : BiosImage) : (setBios b s).lo = s.lo := rfl
@[simp] theorem setBios_mem (b : BiosImage) : (setBios b s).mem = s.mem := rfl
@[simp] theorem setBios_bios (b : BiosImage) : (setBios b s).bios = some b := rfl
@[simp] theorem setBios_halted (b : BiosImage) : (setBios b s).halted = s.halted := rfl
@[simp] theorem setBios_refused (b : BiosImage) : (setBios b s).refused = s.refused := rfl
@[simp] theorem setBios_faultCode (b : BiosImage) : (setBios b s).faultCode = s.faultCode := rfl
@[simp] theorem setBios_faultAddr (b : BiosImage) : (setBios b s).faultAddr = s.faultAddr := rfl
@[simp] theorem setBios_faultLimit (b : BiosImage) : (setBios b s).faultLimit = s.faultLimit := rfl
@[simp] theorem setBios_response (b : BiosImage) : (setBios b s).response = s.response := rfl
@[simp] theorem setBios_biosGuard (b : BiosImage) : (setBios b s).biosGuard = s.biosGuard := rfl
@[simp] theorem setBios_requests (b : BiosImage) : (setBios b s).requests = s.requests := rfl

/-! ### respond -/

@[simp] theorem respond_pc (r : RspStatus) (w : Option Word) : (respond r w s).pc = s.pc := rfl
@[simp] theorem respond_gprs (r : RspStatus) (w : Option Word) : (respond r w s).gprs = s.gprs := rfl
@[simp] theorem respond_hi (r : RspStatus) (w : Option Word) : (respond r w s).hi = s.hi := rfl
@[simp] theorem respond_lo (r : RspStatus) (w : Option Word) : (respond r w s).lo = s.lo := rfl
@[simp] theorem respond_mem (r : RspStatus) (w : Option Word) : (respond r w s).mem = s.mem := rfl
@[simp] theorem respond_bios (r : RspStatus) (w : Option Word) : (respond r w s).bios = s.bios := rfl
@[simp] theorem respond_halted (r : RspStatus) (w : Option Word) : (respond r w s).halted = s.halted := rfl
@[simp] theorem respond_refused (r : RspStatus) (w : Option Word) : (respond r w s).refused = s.refused := rfl
@[simp] theorem respond_faultCode (r : RspStatus) (w : Option Word) : (respond r w s).faultCode = s.faultCode := rfl
@[simp] theorem respond_faultAddr (r : RspStatus) (w : Option Word) : (respond r w s).faultAddr = s.faultAddr := rfl
@[simp] theorem respond_faultLimit (r : RspStatus) (w : Option Word) : (respond r w s).faultLimit = s.faultLimit := rfl
@[simp] theorem respond_response (r : RspStatus) (w : Option Word) : (respond r w s).response = ⟨r, w⟩ := rfl
@[simp] theorem respond_biosGuard (r : RspStatus) (w : Option Word) : (respond r w s).biosGuard = s.biosGuard := rfl
@[simp] theorem respond_requests (r : RspStatus) (w : Option Word) : (respond r w s).requests = s.requests := rfl

/-! ### respondDone -/

@[simp] theorem respondDone_pc : (respondDone s).pc = s.pc := rfl
@[simp] theorem respondDone_gprs : (respondDone s).gprs = s.gprs := rfl
@[simp] theorem respondDone_hi : (respondDone s).hi = s.hi := rfl
@[simp] theorem respondDone_lo : (respondDone s).lo = s.lo := rfl
@[simp] theorem respondDone_mem : (respondDone s).mem = s.mem := rfl
@[simp] theorem respondDone_bios : (respondDone s).bios = s.bios := rfl
@[simp] theorem respondDone_halted : (respondDone s).halted = s.halted := rfl
@[simp] theorem respondDone_refused : (respondDone s).refused = s.refused := rfl
@[simp] theorem respondDone_faultCode : (respondDone s).faultCode = s.faultCode := rfl
@[simp] theorem respondDone_faultAddr : (respondDone s).faultAddr = s.faultAddr := rfl
@[simp] theorem respondDone_faultLimit : (respondDone s).faultLimit = s.faultLimit := rfl
@[simp] theorem respondDone_response : (respondDone s).response = ⟨.ok, none⟩ := rfl
@[simp] theorem respondDone_biosGuard : (respondDone s).biosGuard = s.biosGuard := rfl
@[simp] theorem respondDone_requests : (respondDone s).requests = s.requests := rfl

/-! ### respondWord -/

@[simp] theorem respondWord_pc (v : Word) : (respondWord v s).pc = s.pc := rfl
@[simp] theorem respondWord_gprs (v : Word) : (respondWord v s).gprs = s.gprs := rfl
@[simp] theorem respondWord_hi (v : Word) : (respondWord v s).hi = s.hi := rfl
@[simp] theorem respondWord_lo (v : Word) : (respondWord v s).lo = s.lo := rfl
@[simp] theorem respondWord_mem (v : Word) : (respondWord v s).mem = s.mem := rfl
@[simp] theorem respondWord_bios (v : Word) : (respondWord v s).bios = s.bios := rfl
@[simp] theorem respondWord_halted (v : Word) : (respondWord v s).halted = s.halted := rfl
@[simp] theorem respondWord_refused (v : Word) : (respondWord v s).refused = s.refused := rfl
@[simp] theorem respondWord_faultCode (v : Word) : (respondWord v s).faultCode = s.faultCode := rfl
@[simp] theorem respondWord_faultAddr (v : Word) : (respondWord v s).faultAddr = s.faultAddr := rfl
@[simp] theorem respondWord_faultLimit (v : Word) : (respondWord v s).faultLimit = s.faultLimit := rfl
@[simp] theorem respondWord_response (v : Word) : (respondWord v s).response = ⟨.ok, some v⟩ := rfl
@[simp] theorem respondWord_biosGuard (v : Word) : (respondWord v s).biosGuard = s.biosGuard := rfl
@[simp] theorem respondWord_requests (v : Word) : (respondWord v s).requests = s.requests := rfl

/-! ### respondAbsent -/

@[simp] theorem respondAbsent_pc : (respondAbsent s).pc = s.pc := rfl
@[simp] theorem respondAbsent_gprs : (respondAbsent s).gprs = s.gprs := rfl
@[simp] theorem respondAbsent_hi : (respondAbsent s).hi = s.hi := rfl
@[simp] theorem respondAbsent_lo : (respondAbsent s).lo = s.lo := rfl
@[simp] theorem respondAbsent_mem : (respondAbsent s).mem = s.mem := rfl
@[simp] theorem respondAbsent_bios : (respondAbsent s).bios = s.bios := rfl
@[simp] theorem respondAbsent_halted : (respondAbsent s).halted = s.halted := rfl
@[simp] theorem respondAbsent_refused : (respondAbsent s).refused = s.refused := rfl
@[simp] theorem respondAbsent_faultCode : (respondAbsent s).faultCode = s.faultCode := rfl
@[simp] theorem respondAbsent_faultAddr : (respondAbsent s).faultAddr = s.faultAddr := rfl
@[simp] theorem respondAbsent_faultLimit : (respondAbsent s).faultLimit = s.faultLimit := rfl
@[simp] theorem respondAbsent_response : (respondAbsent s).response = ⟨.notPresent, none⟩ := rfl
@[simp] theorem respondAbsent_biosGuard : (respondAbsent s).biosGuard = s.biosGuard := rfl
@[simp] theorem respondAbsent_requests : (respondAbsent s).requests = s.requests := rfl

/-! ### raiseFatal -/

@[simp] theorem raiseFatal_pc (f : FatalFault) (a : Word) : (raiseFatal f a s).pc = s.pc := rfl
@[simp] theorem raiseFatal_gprs (f : FatalFault) (a : Word) : (raiseFatal f a s).gprs = s.gprs := rfl
@[simp] theorem raiseFatal_hi (f : FatalFault) (a : Word) : (raiseFatal f a s).hi = s.hi := rfl
@[simp] theorem raiseFatal_lo (f : FatalFault) (a : Word) : (raiseFatal f a s).lo = s.lo := rfl
@[simp] theorem raiseFatal_mem (f : FatalFault) (a : Word) : (raiseFatal f a s).mem = s.mem := rfl
@[simp] theorem raiseFatal_bios (f : FatalFault) (a : Word) : (raiseFatal f a s).bios = s.bios := rfl
@[simp] theorem raiseFatal_halted (f : FatalFault) (a : Word) : (raiseFatal f a s).halted = true := rfl
@[simp] theorem raiseFatal_refused (f : FatalFault) (a : Word) : (raiseFatal f a s).refused = s.refused := rfl
@[simp] theorem raiseFatal_faultCode (f : FatalFault) (a : Word) : (raiseFatal f a s).faultCode = f.status.code := rfl
@[simp] theorem raiseFatal_faultAddr (f : FatalFault) (a : Word) : (raiseFatal f a s).faultAddr = a := rfl
@[simp] theorem raiseFatal_faultLimit (f : FatalFault) (a : Word) : (raiseFatal f a s).faultLimit = f.limit := rfl
@[simp] theorem raiseFatal_response (f : FatalFault) (a : Word) : (raiseFatal f a s).response = ⟨f.status, none⟩ := rfl
@[simp] theorem raiseFatal_biosGuard (f : FatalFault) (a : Word) : (raiseFatal f a s).biosGuard = s.biosGuard := rfl
@[simp] theorem raiseFatal_requests (f : FatalFault) (a : Word) : (raiseFatal f a s).requests = s.requests := rfl

/-! ### refuse -/

@[simp] theorem refuse_pc (r : RefuseReason) : (refuse r s).pc = s.pc := rfl
@[simp] theorem refuse_gprs (r : RefuseReason) : (refuse r s).gprs = s.gprs := rfl
@[simp] theorem refuse_hi (r : RefuseReason) : (refuse r s).hi = s.hi := rfl
@[simp] theorem refuse_lo (r : RefuseReason) : (refuse r s).lo = s.lo := rfl
@[simp] theorem refuse_mem (r : RefuseReason) : (refuse r s).mem = s.mem := rfl
@[simp] theorem refuse_bios (r : RefuseReason) : (refuse r s).bios = s.bios := rfl
@[simp] theorem refuse_halted (r : RefuseReason) : (refuse r s).halted = s.halted := rfl
@[simp] theorem refuse_refused (r : RefuseReason) : (refuse r s).refused = true := rfl
@[simp] theorem refuse_faultCode (r : RefuseReason) : (refuse r s).faultCode = s.faultCode := rfl
@[simp] theorem refuse_faultAddr (r : RefuseReason) : (refuse r s).faultAddr = s.faultAddr := rfl
@[simp] theorem refuse_faultLimit (r : RefuseReason) : (refuse r s).faultLimit = s.faultLimit := rfl
@[simp] theorem refuse_response (r : RefuseReason) : (refuse r s).response = ⟨.refused, none⟩ := rfl
@[simp] theorem refuse_biosGuard (r : RefuseReason) : (refuse r s).biosGuard = s.biosGuard := rfl
@[simp] theorem refuse_requests (r : RefuseReason) : (refuse r s).requests = s.requests := rfl

/-! ### takeRequest -/

@[simp] theorem takeRequest_pc (rest : List Command) : (takeRequest rest s).pc = s.pc := rfl
@[simp] theorem takeRequest_gprs (rest : List Command) : (takeRequest rest s).gprs = s.gprs := rfl
@[simp] theorem takeRequest_hi (rest : List Command) : (takeRequest rest s).hi = s.hi := rfl
@[simp] theorem takeRequest_lo (rest : List Command) : (takeRequest rest s).lo = s.lo := rfl
@[simp] theorem takeRequest_mem (rest : List Command) : (takeRequest rest s).mem = s.mem := rfl
@[simp] theorem takeRequest_bios (rest : List Command) : (takeRequest rest s).bios = s.bios := rfl
@[simp] theorem takeRequest_halted (rest : List Command) : (takeRequest rest s).halted = s.halted := rfl
@[simp] theorem takeRequest_refused (rest : List Command) : (takeRequest rest s).refused = s.refused := rfl
@[simp] theorem takeRequest_faultCode (rest : List Command) : (takeRequest rest s).faultCode = s.faultCode := rfl
@[simp] theorem takeRequest_faultAddr (rest : List Command) : (takeRequest rest s).faultAddr = s.faultAddr := rfl
@[simp] theorem takeRequest_faultLimit (rest : List Command) : (takeRequest rest s).faultLimit = s.faultLimit := rfl
@[simp] theorem takeRequest_response (rest : List Command) : (takeRequest rest s).response = s.response := rfl
@[simp] theorem takeRequest_biosGuard (rest : List Command) : (takeRequest rest s).biosGuard = s.biosGuard := rfl
@[simp] theorem takeRequest_requests (rest : List Command) : (takeRequest rest s).requests = rest := rfl

end Sys2Proof.Machine
end

