-- ==== Sys2Proof/Laws/Bios.lean ====
section
/-! SUPPORT. The laws of the BIOS image: which bytes an image and a word hold (41_bios_ops.md R120,
30_encoding.md R88), and everything a load and a read can do. -/

namespace Sys2Proof.Machine

open Sys2Proof.Config

/-- The image holds the stream's first bytes, in order (41_bios_ops.md R120). -/
theorem imageOfStream_getElem (bytes : List Byte) (h : biosSize ≤ bytes.length) (o : Nat)
    (ho : o < biosSize) : (imageOfStream bytes h)[o] = bytes[o] := by
  simp [imageOfStream]

/-- What follows the first `biosSize` bytes of a stream is not in the image (41_bios_ops.md R122). -/
theorem imageOfStream_congr {bytes bytes' : List Byte} (h : biosSize ≤ bytes.length)
    (h' : biosSize ≤ bytes'.length) (e : bytes.take biosSize = bytes'.take biosSize) :
    imageOfStream bytes h = imageOfStream bytes' h' := by
  simp [imageOfStream, e]

/-- Everything a BIOS_LOAD of an absent image can do (41_bios_ops.md R120). -/
theorem loadBios_cases (fw : FwAnswer) (s : State) :
    (fw = .openError ∧ loadBios fw s = respond .biosIoError none s) ∨
    (∃ bytes ending, ∃ h : biosSize ≤ bytes.length, fw = .stream bytes ending ∧
      loadBios fw s = respondDone (setBios (imageOfStream bytes h) s)) ∨
    (∃ bytes, bytes.length < biosSize ∧ fw = .stream bytes .err ∧
      loadBios fw s = respond .biosIoError none s) ∨
    (∃ bytes, bytes.length < biosSize ∧ fw = .stream bytes .eof ∧
      loadBios fw s = respond .biosSizeMismatch none s) := by
  cases fw with
  | openError => exact .inl ⟨rfl, rfl⟩
  | stream bytes ending =>
    by_cases h : biosSize ≤ bytes.length
    · exact .inr (.inl ⟨bytes, ending, h, rfl, by simp [loadBios, h]⟩)
    · cases ending with
      | err => exact .inr (.inr (.inl ⟨bytes, by omega, rfl, by simp [loadBios, h]⟩))
      | eof => exact .inr (.inr (.inr ⟨bytes, by omega, rfl, by simp [loadBios, h]⟩))

/-- Everything a BIOS_READ of an image can do under the CORRECTED guard (41_bios_ops.md R124). -/
theorem biosReadCorrected_cases (b : BiosImage) (addr : Word) (s : State) :
    (∃ h : addr.toNat + 3 < biosSize,
      biosReadCorrected b addr s = respondWord (biosWord b addr.toNat h) s) ∨
    (biosSize < addr.toNat + 4 ∧ biosReadCorrected b addr s = respondAbsent s) := by
  by_cases h : addr.toNat + 4 ≤ biosSize
  · exact .inl ⟨by omega, by simp [biosReadCorrected, addrIndex, h]⟩
  · exact .inr ⟨by omega, by simp [biosReadCorrected, addrIndex, h]⟩

/-- Everything a BIOS_READ of an image can do under the LITERAL guard (41_bios_ops.md R125). -/
theorem biosReadLiteral_cases (b : BiosImage) (addr : Word) (s : State) :
    (addr.toNat + 4 < biosSize ∧ biosReadLiteral b addr s = respondAbsent s) ∨
    (∃ h : addr.toNat + 3 < biosSize, addr.toNat + 4 = biosSize ∧
      biosReadLiteral b addr s = respondWord (biosWord b addr.toNat h) s) ∨
    (biosSize < addr.toNat + 4 ∧ biosReadLiteral b addr s = raiseFatal .biosBeyond addr s) := by
  rcases Nat.lt_trichotomy (addr.toNat + 4) biosSize with h | h | h
  · exact .inl ⟨h, by simp [biosReadLiteral, addrIndex, h]⟩
  · exact .inr (.inl ⟨by omega, h, by simp [biosReadLiteral, addrIndex, h]⟩)
  · have h1 : ¬ addr.toNat + 4 < biosSize := by omega
    have h2 : ¬ addr.toNat + 4 = biosSize := by omega
    exact .inr (.inr ⟨h, by simp [biosReadLiteral, addrIndex, h1, h2]⟩)

end Sys2Proof.Machine
end

