-- ==== Sys2Proof/Laws/Decode.lean ====
section
/-! SUPPORT. The opcode map's rows do not overlap (30_encoding.md R83), and which row a command word
belongs to. -/

namespace Sys2Proof

/-- The fixed bits of a row lie under its mask. -/
theorem opcodeTable_matchBits_under_mask :
    (opcodeTable.all fun r => r.matchBits &&& r.mask == r.matchBits) = true := by decide

/-- No two rows of the opcode map admit one command word: their fixed bits differ under both masks. -/
theorem opcodeTable_rows_disjoint :
    List.Pairwise (fun r r' : TableRow => r.matchBits &&& r'.mask ≠ r'.matchBits &&& r.mask)
      opcodeTable := by decide

/-- A command that decodes was built by a row that its command word belongs to. -/
theorem decode_eq_some {c : Command} {i : Instr} (h : decode c = some i) :
    ∃ r ∈ opcodeTable, r.matches c.cmd = true ∧ r.build c = i := by
  obtain ⟨r, hr, rfl⟩ := Option.map_eq_some_iff.mp h
  exact ⟨r, List.mem_of_find?_eq_some hr, by simpa using List.find?_some hr, rfl⟩

/-- A command is refused only when its command word belongs to no row. -/
theorem decode_eq_none {c : Command} (h : decode c = none) :
    ∀ r ∈ opcodeTable, r.matches c.cmd = false := by
  simpa [decode] using h

/-- Which commands decode depends on the command word alone (30_encoding.md R87). -/
theorem decode_isSome_congr {c c' : Command} (h : c.cmd = c'.cmd) :
    (decode c).isSome = (decode c').isSome := by
  simp [decode, h]

/-! ### The fields of a command word (30_encoding.md R82) -/

/-- A command word is its three fields. -/
theorem cmdWord_eq_fields (w : CmdWord) : w = opField w ++ rsvField w ++ idxField w := by
  refine BitVec.eq_of_getLsbD_eq fun k hk => ?_
  simp only [opField, rsvField, idxField, BitVec.getLsbD_append, BitVec.getLsbD_extractLsb']
  by_cases h5 : k < 5
  · simp [h5]
  by_cases h12 : k < 12
  · simp [h5, show k - 5 < 7 by omega, show 5 + (k - 5) = k by omega]
  · simp [h5, show ¬ k - 5 < 7 by omega, show k - 5 - 7 < 4 by omega,
      show 12 + (k - 5 - 7) = k by omega]

/-- The fields of an encoded command word. -/
theorem fields_encodeCmd : ∀ (op : BitVec 4) (idx : BitVec 5), opField (encodeCmd op idx) = op ∧
    rsvField (encodeCmd op idx) = 0#7 ∧ idxField (encodeCmd op idx) = idx := by decide

/-- A command word whose RSV is zero is the encoding of its OP and IDX. -/
theorem encodeCmd_fields {w : CmdWord} (h : rsvField w = 0#7) :
    encodeCmd (opField w) (idxField w) = w := by
  conv_rhs => rw [cmdWord_eq_fields w, h]
  rfl

/-- The mask of a row without an IDX field keeps the whole command word. -/
theorem and_wholeMask (w : CmdWord) : w &&& 0xFFFF#16 = w := by
  rw [show (0xFFFF#16) = BitVec.allOnes 16 by decide, BitVec.and_allOnes]

/-- The mask of a row with an IDX field clears IDX and keeps OP and RSV. -/
theorem and_idxMask (w : CmdWord) : w &&& 0xFFE0#16 = opField w ++ rsvField w ++ 0#5 := by
  conv_lhs => rw [cmdWord_eq_fields w]
  rw [show (0xFFE0#16) = BitVec.allOnes 11 ++ 0#5 by decide]
  refine BitVec.eq_of_getLsbD_eq fun k hk => ?_
  simp only [BitVec.getLsbD_and, BitVec.getLsbD_append, BitVec.getLsbD_allOnes, BitVec.getLsbD_zero]
  by_cases h5 : k < 5
  · simp [h5]
  · simp [h5, show k - 5 < 11 by omega]

end Sys2Proof
end

