-- ==== Sys2Proof/Laws/Memory.lean ====
section
/-! SUPPORT. The laws of the Memory: a read after a write (20_memory.md R65), the canonical form that
every operation keeps (10_state.md R28), and that the canonical form is one list per Memory. -/

namespace Sys2Proof.Machine

open Sys2Proof.Config

namespace Memory

@[simp] theorem read_nil (k : Nat) : Memory.read [] k = unlisted := rfl

@[simp] theorem read_cons (c : Nat × Word) (m : Memory) (k : Nat) :
    Memory.read (c :: m) k = if c.1 = k then c.2 else Memory.read m k := rfl

@[simp] theorem read_newEmpty (k : Nat) : newEmpty.read k = 0#32 := rfl

theorem read_filter_same (m : Memory) (k : Nat) :
    Memory.read (m.filter fun c => c.1 != k) k = unlisted := by
  induction m with
  | nil => rfl
  | cons c rest ih => by_cases h : c.1 = k <;> simp [h, ih]

theorem read_filter_other (m : Memory) {k j : Nat} (h : j ≠ k) :
    Memory.read (m.filter fun c => c.1 != k) j = m.read j := by
  induction m with
  | nil => rfl
  | cons c rest ih =>
    by_cases hc : c.1 = k
    · have : c.1 ≠ j := by omega
      simp [hc, ih, h.symm]
    · simp [hc, ih]

theorem read_insertCell_same (m : Memory) (k : Nat) (v : Word) : (m.insertCell k v).read k = v := by
  induction m with
  | nil => simp [insertCell]
  | cons c rest ih =>
    by_cases h : k ≤ c.1
    · simp [insertCell, h]
    · have : c.1 ≠ k := by omega
      simp [insertCell, h, this, ih]

theorem read_insertCell_other (m : Memory) {k j : Nat} (v : Word) (h : j ≠ k) :
    (m.insertCell k v).read j = m.read j := by
  induction m with
  | nil => simp [insertCell, h.symm]
  | cons c rest ih => by_cases hc : k ≤ c.1 <;> simp [insertCell, hc, h.symm, ih]

/-- A read after a write to the same index gives the value written. -/
@[simp] theorem read_write_same (m : Memory) (k : Nat) (v : Word) : (m.write k v).read k = v := by
  by_cases h : v = unlisted
  · simp [write, h, read_filter_same]
  · simp [write, h, read_insertCell_same]

/-- A write leaves every other index alone. -/
theorem read_write_other (m : Memory) {k j : Nat} (v : Word) (h : j ≠ k) :
    (m.write k v).read j = m.read j := by
  by_cases hv : v = unlisted
  · simp [write, hv, read_filter_other m h]
  · simp [write, hv, read_insertCell_other _ v h, read_filter_other m h]

/-! ### The canonical form -/

@[simp] theorem wfFrom_nil (low : Nat) : wfFrom low [] = true := rfl

theorem wfFrom_cons {low j : Nat} {w : Word} {rest : Memory} :
    wfFrom low ((j, w) :: rest) = true ↔
      low ≤ j ∧ j < memWords ∧ w ≠ unlisted ∧ wfFrom (j + 1) rest = true := by
  simp [wfFrom, and_assoc]

theorem wfFrom_mono {low low' : Nat} (h : low' ≤ low) {m : Memory} (hm : wfFrom low m = true) :
    wfFrom low' m = true := by
  cases m with
  | nil => rfl
  | cons c rest =>
    obtain ⟨j, w⟩ := c
    rw [wfFrom_cons] at hm ⊢
    exact ⟨by omega, hm.2⟩

theorem wfFrom_filter (p : Nat × Word → Bool) {low : Nat} {m : Memory} (hm : wfFrom low m = true) :
    wfFrom low (m.filter p) = true := by
  induction m generalizing low with
  | nil => rfl
  | cons c rest ih =>
    obtain ⟨j, w⟩ := c
    obtain ⟨hlow, hj, hw, hrest⟩ := wfFrom_cons.mp hm
    cases hp : p (j, w)
    · simpa [hp] using wfFrom_mono (by omega) (ih hrest)
    · simpa [hp, wfFrom_cons] using ⟨hlow, hj, hw, ih hrest⟩

theorem wfFrom_insertCell {low k : Nat} {v : Word} {m : Memory} (hlow : low ≤ k) (hk : k < memWords)
    (hv : v ≠ unlisted) (hne : ∀ c ∈ m, c.1 ≠ k) (hm : wfFrom low m = true) :
    wfFrom low (m.insertCell k v) = true := by
  induction m generalizing low with
  | nil => simp [insertCell, wfFrom_cons, hlow, hk, hv]
  | cons c rest ih =>
    obtain ⟨j, w⟩ := c
    obtain ⟨hj, hjm, hw, hrest⟩ := wfFrom_cons.mp hm
    have hjk : j ≠ k := hne (j, w) (by simp)
    by_cases h : k ≤ j
    · simpa [insertCell, h, wfFrom_cons] using ⟨hlow, hk, hv, by omega, hjm, hw, hrest⟩
    · have ih' := ih (low := j + 1) (by omega) (fun c hc => hne c (by simp [hc])) hrest
      simpa [insertCell, h, wfFrom_cons] using ⟨hj, hjm, hw, ih'⟩

/-- A write at a valid index keeps the canonical form. -/
theorem wf_write {m : Memory} {k : Nat} (v : Word) (hk : k < memWords) (hm : m.wf = true) :
    (m.write k v).wf = true := by
  have hf : wfFrom 0 (m.filter fun c => c.1 != k) = true := wfFrom_filter _ hm
  by_cases hv : v = unlisted
  · simpa [wf, write, hv] using hf
  · simpa [wf, write, hv] using wfFrom_insertCell (Nat.zero_le k) hk hv (by simp) hf

/-- The zero-filled Memory has the canonical form. -/
@[simp] theorem wf_newEmpty : newEmpty.wf = true := rfl

/-- Power-on's Memory has the canonical form. -/
theorem wf_reset : State.reset.mem.wf = true := rfl

theorem read_below {low k : Nat} (h : k < low) {m : Memory} (hm : wfFrom low m = true) :
    m.read k = unlisted := by
  induction m generalizing low with
  | nil => rfl
  | cons c rest ih =>
    obtain ⟨j, w⟩ := c
    obtain ⟨hj, -, -, hrest⟩ := wfFrom_cons.mp hm
    have : j ≠ k := by omega
    simpa [this] using ih (low := j + 1) (by omega) hrest

theorem eq_of_read_eq_from {low : Nat} {m m' : Memory} (hm : wfFrom low m = true)
    (hm' : wfFrom low m' = true) (h : ∀ k, m.read k = m'.read k) : m = m' := by
  induction m generalizing low m' with
  | nil =>
    cases m' with
    | nil => rfl
    | cons c rest =>
      obtain ⟨j, w⟩ := c
      exact absurd (by simpa using (h j).symm) (wfFrom_cons.mp hm').2.2.1
  | cons c rest ih =>
    obtain ⟨j, w⟩ := c
    obtain ⟨hj, -, hw, hrest⟩ := wfFrom_cons.mp hm
    cases m' with
    | nil => exact absurd (by simpa using h j) hw
    | cons c' rest' =>
      obtain ⟨j', w'⟩ := c'
      obtain ⟨hj', -, hw', hrest'⟩ := wfFrom_cons.mp hm'
      have hjj : j = j' := by
        rcases Nat.lt_trichotomy j j' with hlt | heq | hgt
        · have := h j
          rw [read_below (low := j') hlt (wfFrom_cons.mpr ⟨le_rfl, (wfFrom_cons.mp hm').2⟩)] at this
          exact absurd (by simpa using this) hw
        · exact heq
        · have := h j'
          rw [read_below (low := j) hgt (wfFrom_cons.mpr ⟨le_rfl, (wfFrom_cons.mp hm).2⟩)] at this
          exact absurd (by simpa using this.symm) hw'
      subst hjj
      have hww : w = w' := by simpa using h j
      subst hww
      have hrr : rest = rest' := by
        refine ih hrest hrest' fun k => ?_
        by_cases hk : j = k
        · subst hk
          rw [read_below (low := j + 1) (by omega) hrest, read_below (low := j + 1) (by omega) hrest']
        · simpa [hk] using h k
      rw [hrr]

/-- Equal Memories are equal data: two canonical lists that read alike are the same list. -/
theorem eq_of_read_eq {m m' : Memory} (hm : m.wf = true) (hm' : m'.wf = true)
    (h : ∀ k, m.read k = m'.read k) : m = m' :=
  eq_of_read_eq_from hm hm' h

end Memory

/-! ### The range-checked access -/

/-- Everything a Memory read can answer (40_memory_ops.md R103). -/
theorem memRead_cases (m : Memory) (addr : Word) :
    (addr.toNat < memWords ∧ memRead m addr = some (m.read addr.toNat)) ∨
      (memWords ≤ addr.toNat ∧ memRead m addr = none) := by
  by_cases h : addr.toNat < memWords
  · exact .inl ⟨h, by simp [memRead, memInRange, addrIndex, h]⟩
  · exact .inr ⟨by omega, by simp [memRead, memInRange, addrIndex, h]⟩

/-- Everything a Memory write can answer (40_memory_ops.md R101). -/
theorem memWrite_cases (m : Memory) (addr data : Word) :
    (addr.toNat < memWords ∧ memWrite m addr data = some (m.write addr.toNat data)) ∨
      (memWords ≤ addr.toNat ∧ memWrite m addr data = none) := by
  by_cases h : addr.toNat < memWords
  · exact .inl ⟨h, by simp [memWrite, memInRange, addrIndex, h]⟩
  · exact .inr ⟨by omega, by simp [memWrite, memInRange, addrIndex, h]⟩

/-- A range-checked write keeps the canonical form. -/
theorem memWrite_wf {m m' : Memory} {addr data : Word} (hm : m.wf = true)
    (h : memWrite m addr data = some m') : m'.wf = true := by
  rcases memWrite_cases m addr data with ⟨hk, he⟩ | ⟨-, he⟩
  · rw [he] at h
    cases h
    exact Memory.wf_write data hk hm
  · rw [he] at h
    cases h

end Sys2Proof.Machine
end

