-- ==== Sys2Proof/Laws/Registers.lean ====
section
/-! SUPPORT. The laws of the register file (10_state.md R20, R21): x[0] is a register like the others. -/

namespace Sys2Proof.Machine

variable (s : State)

@[simp] theorem readGpr_writeGpr_same (i : BitVec 5) (v : Word) : readGpr i (writeGpr i v s) = v := by
  simp [readGpr]

theorem readGpr_writeGpr_other {i j : BitVec 5} (v : Word) (h : j ≠ i) :
    readGpr j (writeGpr i v s) = readGpr j s := by
  have hn : i.toNat ≠ j.toNat := fun e => h (BitVec.eq_of_toNat_eq e.symm)
  simp [readGpr, Vector.getElem_set_ne, hn]

@[simp] theorem readGpr_zeroGprs (i : BitVec 5) : readGpr i (zeroGprs s) = 0#32 := by
  simp [readGpr]

/-- A read sees nothing of State but the register file. -/
theorem readGpr_congr {s t : State} (h : t.gprs = s.gprs) (i : BitVec 5) : readGpr i t = readGpr i s := by
  simp [readGpr, h]

/-- Two register files that read alike at every index are the same. -/
theorem gprs_eq_of_readGpr_eq {s t : State} (h : ∀ i, readGpr i s = readGpr i t) : s.gprs = t.gprs := by
  refine Vector.ext fun k hk => ?_
  have := h (BitVec.ofNatLT k hk)
  simpa [readGpr] using this

end Sys2Proof.Machine
end

