-- ==== Sys2Proof/Laws/Step.lean ====
section
/-! SUPPORT. Everything a command and a step can do, said once. -/

namespace Sys2Proof.Machine

open Sys2Proof.Config

/-- Everything accepting the next request can do (60_exceptions.md R176). -/
theorem accept_cases (s : State) :
    (s.halted = true ∧ accept s = .noStep .halted) ∨
    (s.halted = false ∧ s.requests = [] ∧ accept s = .settled s) ∨
    (∃ c rest, s.halted = false ∧ s.requests = c :: rest ∧ decode c = none ∧
      accept s = .settled (refuse .reservedEncoding (takeRequest rest s))) ∨
    (∃ c rest i, s.halted = false ∧ s.requests = c :: rest ∧ decode c = some i ∧
      accept s = .run i (takeRequest rest s)) := by
  cases hh : s.halted with
  | true => exact .inl ⟨rfl, by simp [accept, hh]⟩
  | false =>
    cases hr : s.requests with
    | nil => exact .inr (.inl ⟨rfl, rfl, by simp [accept, hh, hr]⟩)
    | cons c rest =>
      cases hd : decode c with
      | none => exact .inr (.inr (.inl ⟨c, rest, rfl, rfl, hd, by simp [accept, hh, hr, hd]⟩))
      | some i => exact .inr (.inr (.inr ⟨c, rest, i, rfl, rfl, hd, by simp [accept, hh, hr, hd]⟩))

/-- Everything a step that answers a next state can have done. -/
theorem step_cases {s t : State} (h : step s = .next t) :
    (s.halted = false ∧ s.requests = [] ∧ t = s) ∨
    (∃ c rest, s.halted = false ∧ s.requests = c :: rest ∧ decode c = none ∧
      t = refuse .reservedEncoding (takeRequest rest s)) ∨
    (∃ c rest i, s.halted = false ∧ s.requests = c :: rest ∧ decode c = some i ∧
      exec i (takeRequest rest s) = .next t) := by
  rcases accept_cases s with ⟨-, ha⟩ | ⟨hh, hr, ha⟩ | ⟨c, rest, hh, hr, hd, ha⟩ |
    ⟨c, rest, i, hh, hr, hd, ha⟩
  · simp [step, ha] at h
  · exact .inl ⟨hh, hr, by simpa [step, ha] using h.symm⟩
  · exact .inr (.inl ⟨c, rest, hh, hr, hd, by simpa [step, ha] using h.symm⟩)
  · exact .inr (.inr ⟨c, rest, i, hh, hr, hd, by simpa [step, ha] using h⟩)

/-- Everything MEM_WRITE can do (40_memory_ops.md R101). -/
theorem execMemWrite_cases (addr data : Word) (s : State) :
    (addr.toNat < memWords ∧
      execMemWrite addr data s = .next (respondDone (setMemory (s.mem.write addr.toNat data) s))) ∨
    (memWords ≤ addr.toNat ∧
      execMemWrite addr data s = .next (raiseFatal .writeOutOfRange addr s)) := by
  rcases memWrite_cases s.mem addr data with ⟨hk, he⟩ | ⟨hk, he⟩
  · exact .inl ⟨hk, by simp [execMemWrite, he]⟩
  · exact .inr ⟨hk, by simp [execMemWrite, he]⟩

/-- Everything MEM_READ can do (40_memory_ops.md R103). -/
theorem execMemRead_cases (addr : Word) (s : State) :
    (addr.toNat < memWords ∧
      execMemRead addr s = .next (respondWord (s.mem.read addr.toNat) s)) ∨
    (memWords ≤ addr.toNat ∧ execMemRead addr s = .next (respondAbsent s)) := by
  rcases memRead_cases s.mem addr with ⟨hk, he⟩ | ⟨hk, he⟩
  · exact .inl ⟨hk, by simp [execMemRead, he]⟩
  · exact .inr ⟨hk, by simp [execMemRead, he]⟩

/-- Everything BIOS_LOAD can do (41_bios_ops.md R120). -/
theorem execBiosLoad_cases (fw : FwAnswer) (s : State) :
    (s.bios.isSome = true ∧ execBiosLoad fw s = .next (refuse .biosAlreadyLoaded s)) ∨
    (s.bios = none ∧ execBiosLoad fw s = .next (loadBios fw s)) := by
  cases hb : s.bios with
  | none => exact .inr ⟨rfl, by simp [execBiosLoad, hb]⟩
  | some b => exact .inl ⟨rfl, by simp [execBiosLoad, hb]⟩

/-- Everything BIOS_READ can do (41_bios_ops.md R124, R125). -/
theorem execBiosRead_cases (addr : Word) (s : State) :
    (s.bios = none ∧ execBiosRead addr s = .next (refuse .biosNotLoaded s)) ∨
    (∃ b, s.bios = some b ∧ s.biosGuard = .corrected ∧
      execBiosRead addr s = .next (biosReadCorrected b addr s)) ∨
    (∃ b, s.bios = some b ∧ s.biosGuard = .literal ∧
      execBiosRead addr s = .next (biosReadLiteral b addr s)) := by
  cases hb : s.bios with
  | none => exact .inl ⟨rfl, by simp [execBiosRead, hb]⟩
  | some b =>
    cases hg : s.biosGuard with
    | corrected => exact .inr (.inl ⟨b, rfl, rfl, by simp [execBiosRead, biosReadImage, hb, hg]⟩)
    | literal => exact .inr (.inr ⟨b, rfl, rfl, by simp [execBiosRead, biosReadImage, hb, hg]⟩)

/-- Every command of the opcode map answers a next state: its effect, its fatal fault (60_exceptions.md
R172) or its refusal (60_exceptions.md R175). -/
theorem exec_answers_next (i : Instr) (s : State) : ∃ t, exec i s = .next t := by
  cases i with
  | memWrite addr data =>
    rcases execMemWrite_cases addr data s with ⟨-, h⟩ | ⟨-, h⟩ <;> exact ⟨_, h⟩
  | memRead addr => rcases execMemRead_cases addr s with ⟨-, h⟩ | ⟨-, h⟩ <;> exact ⟨_, h⟩
  | biosLoad fw => rcases execBiosLoad_cases fw s with ⟨-, h⟩ | ⟨-, h⟩ <;> exact ⟨_, h⟩
  | biosRead addr =>
    rcases execBiosRead_cases addr s with ⟨-, h⟩ | ⟨_, -, -, h⟩ | ⟨_, -, -, h⟩ <;> exact ⟨_, h⟩
  | _ => exact ⟨_, rfl⟩

end Sys2Proof.Machine
end

