-- ==== Sys2Proof/Laws/Effect.lean ====
section
/-! SUPPORT. Everything a command can do, as one relation: one constructor per outcome of a rule of
40_memory_ops.md, 41_bios_ops.md and 42_cpu_ops.md, with the condition under which it is that one.
`exec_iff_effect` says that the relation is `exec`; later proofs take cases on it and never unfold a
meaning. -/

namespace Sys2Proof.Machine

open Sys2Proof.Config

/-- `Effect i s t`: the command `i` takes the block from `s` to `t`. -/
inductive Effect : Instr → State → State → Prop
  | cpuReset {s : State} : Effect .cpuReset s (respondDone
      (setMemory Memory.newEmpty (writeLo 0#32 (writeHi 0#32 (zeroGprs (writePc resetVector s))))))
  | clearRegs {s : State} : Effect .clearRegs s (respondDone (zeroGprs s))
  | incPc {s : State} : Effect .incPc s (respondDone (writePc (advancedPc s.pc) s))
  | memWriteStores {s : State} {addr data : Word} (h : addr.toNat < memWords) :
      Effect (.memWrite addr data) s (respondDone (setMemory (s.mem.write addr.toNat data) s))
  | memWriteHalts {s : State} {addr data : Word} (h : memWords ≤ addr.toNat) :
      Effect (.memWrite addr data) s (raiseFatal .writeOutOfRange addr s)
  | memReadWord {s : State} {addr : Word} (h : addr.toNat < memWords) :
      Effect (.memRead addr) s (respondWord (s.mem.read addr.toNat) s)
  | memReadAbsent {s : State} {addr : Word} (h : memWords ≤ addr.toNat) :
      Effect (.memRead addr) s (respondAbsent s)
  | memClear {s : State} : Effect .memClear s (respondDone (setMemory Memory.newEmpty s))
  | biosLoadRefused {s : State} {fw : FwAnswer} {b : BiosImage} (hb : s.bios = some b) :
      Effect (.biosLoad fw) s (refuse .biosAlreadyLoaded s)
  | biosLoadOpenError {s : State} (hb : s.bios = none) :
      Effect (.biosLoad .openError) s (respond .biosIoError none s)
  | biosLoadImage {s : State} {bytes : List Byte} {ending : StreamEnd} (hb : s.bios = none)
      (h : biosSize ≤ bytes.length) :
      Effect (.biosLoad (.stream bytes ending)) s (respondDone (setBios (imageOfStream bytes h) s))
  | biosLoadReadError {s : State} {bytes : List Byte} (hb : s.bios = none)
      (h : bytes.length < biosSize) :
      Effect (.biosLoad (.stream bytes .err)) s (respond .biosIoError none s)
  | biosLoadShort {s : State} {bytes : List Byte} (hb : s.bios = none) (h : bytes.length < biosSize) :
      Effect (.biosLoad (.stream bytes .eof)) s (respond .biosSizeMismatch none s)
  | biosReadRefused {s : State} {addr : Word} (hb : s.bios = none) :
      Effect (.biosRead addr) s (refuse .biosNotLoaded s)
  | biosReadWord {s : State} {addr : Word} {b : BiosImage} (hb : s.bios = some b)
      (h : addr.toNat + 3 < biosSize) (hg : s.biosGuard = .literal → addr.toNat + 4 = biosSize) :
      Effect (.biosRead addr) s (respondWord (biosWord b addr.toNat h) s)
  | biosReadPastCorrected {s : State} {addr : Word} {b : BiosImage} (hb : s.bios = some b)
      (hg : s.biosGuard = .corrected) (h : biosSize < addr.toNat + 4) :
      Effect (.biosRead addr) s (respondAbsent s)
  | biosReadInnerLiteral {s : State} {addr : Word} {b : BiosImage} (hb : s.bios = some b)
      (hg : s.biosGuard = .literal) (h : addr.toNat + 4 < biosSize) :
      Effect (.biosRead addr) s (respondAbsent s)
  | biosReadHalts {s : State} {addr : Word} {b : BiosImage} (hb : s.bios = some b)
      (hg : s.biosGuard = .literal) (h : biosSize < addr.toNat + 4) :
      Effect (.biosRead addr) s (raiseFatal .biosBeyond addr s)
  | gprRead {s : State} {idx : BitVec 5} : Effect (.gprRead idx) s (respondWord (readGpr idx s) s)
  | gprWrite {s : State} {idx : BitVec 5} {data : Word} :
      Effect (.gprWrite idx data) s (respondDone (writeGpr idx data s))
  | hiRead {s : State} : Effect .hiRead s (respondWord s.hi s)
  | hiWrite {s : State} {data : Word} : Effect (.hiWrite data) s (respondDone (writeHi data s))
  | loRead {s : State} : Effect .loRead s (respondWord s.lo s)
  | loWrite {s : State} {data : Word} : Effect (.loWrite data) s (respondDone (writeLo data s))
  | pcRead {s : State} : Effect .pcRead s (respondWord s.pc s)
  | pcWrite {s : State} {data : Word} : Effect (.pcWrite data) s (respondDone (writePc data s))

/-- Every command of the opcode map has an effect in every state, and `exec` answers it. -/
theorem exists_effect (i : Instr) (s : State) : ∃ t, exec i s = .next t ∧ Effect i s t := by
  cases i with
  | cpuReset => exact ⟨_, rfl, .cpuReset⟩
  | clearRegs => exact ⟨_, rfl, .clearRegs⟩
  | incPc => exact ⟨_, rfl, .incPc⟩
  | memWrite addr data =>
    rcases execMemWrite_cases addr data s with ⟨hk, h⟩ | ⟨hk, h⟩
    · exact ⟨_, h, .memWriteStores hk⟩
    · exact ⟨_, h, .memWriteHalts hk⟩
  | memRead addr =>
    rcases execMemRead_cases addr s with ⟨hk, h⟩ | ⟨hk, h⟩
    · exact ⟨_, h, .memReadWord hk⟩
    · exact ⟨_, h, .memReadAbsent hk⟩
  | memClear => exact ⟨_, rfl, .memClear⟩
  | biosLoad fw =>
    rcases execBiosLoad_cases fw s with ⟨hb, h⟩ | ⟨hb, h⟩
    · obtain ⟨b, hb⟩ := Option.isSome_iff_exists.mp hb
      exact ⟨_, h, .biosLoadRefused hb⟩
    · rcases loadBios_cases fw s with ⟨rfl, e⟩ | ⟨bytes, ending, hl, rfl, e⟩ | ⟨bytes, hl, rfl, e⟩ |
        ⟨bytes, hl, rfl, e⟩ <;> rw [e] at h
      · exact ⟨_, h, .biosLoadOpenError hb⟩
      · exact ⟨_, h, .biosLoadImage hb hl⟩
      · exact ⟨_, h, .biosLoadReadError hb hl⟩
      · exact ⟨_, h, .biosLoadShort hb hl⟩
  | biosRead addr =>
    rcases execBiosRead_cases addr s with ⟨hb, h⟩ | ⟨b, hb, hg, h⟩ | ⟨b, hb, hg, h⟩
    · exact ⟨_, h, .biosReadRefused hb⟩
    · rcases biosReadCorrected_cases b addr s with ⟨hk, e⟩ | ⟨hk, e⟩ <;> rw [e] at h
      · exact ⟨_, h, .biosReadWord hb hk (by simp [hg])⟩
      · exact ⟨_, h, .biosReadPastCorrected hb hg hk⟩
    · rcases biosReadLiteral_cases b addr s with ⟨hk, e⟩ | ⟨hk, h4, e⟩ | ⟨hk, e⟩ <;> rw [e] at h
      · exact ⟨_, h, .biosReadInnerLiteral hb hg hk⟩
      · exact ⟨_, h, .biosReadWord hb hk fun _ => h4⟩
      · exact ⟨_, h, .biosReadHalts hb hg hk⟩
  | gprRead idx => exact ⟨_, rfl, .gprRead⟩
  | gprWrite idx data => exact ⟨_, rfl, .gprWrite⟩
  | hiRead => exact ⟨_, rfl, .hiRead⟩
  | hiWrite data => exact ⟨_, rfl, .hiWrite⟩
  | loRead => exact ⟨_, rfl, .loRead⟩
  | loWrite data => exact ⟨_, rfl, .loWrite⟩
  | pcRead => exact ⟨_, rfl, .pcRead⟩
  | pcWrite data => exact ⟨_, rfl, .pcWrite⟩

/-- Whatever `exec` answers is an effect of the command. -/
theorem effect_of_exec {i : Instr} {s t : State} (h : exec i s = .next t) : Effect i s t := by
  obtain ⟨u, hu, he⟩ := exists_effect i s
  cases hu.symm.trans h
  exact he

/-- The conditions of a command's outcomes exclude each other. -/
theorem Effect.unique {i : Instr} {s t u : State} (ht : Effect i s t) (hu : Effect i s u) : t = u := by
  cases ht <;> cases hu <;> first | rfl | omega | simp_all

/-- The relation is `exec`. -/
theorem exec_iff_effect {i : Instr} {s t : State} : exec i s = .next t ↔ Effect i s t := by
  refine ⟨effect_of_exec, fun h => ?_⟩
  obtain ⟨u, hu, he⟩ := exists_effect i s
  rw [hu, he.unique h]

/-- No command, not even a refused or a fatal one, changes the build parameter or the requester's
commands (10_state.md R36). -/
theorem Effect.keeps_inputs {i : Instr} {s t : State} (h : Effect i s t) :
    t.biosGuard = s.biosGuard ∧ t.requests = s.requests := by
  cases h <;> exact ⟨rfl, rfl⟩

end Sys2Proof.Machine
end

