-- ==== Sys2Proof/Laws/PerInstr.lean ====
section
/-! SUPPORT. The per-instruction family `TableRow`: the encoder (from 30_encoding.md R82) writes a
command word that belongs to the command's own row of the opcode map (30_encoding.md R83). -/

namespace Sys2Proof.Laws.TableRow

/-- The command word that the encoder writes belongs to the row of the command's mnemonic. -/
def Statement (i : Instr) : Prop :=
  ∃ r ∈ opcodeTable, r.mnemonic = i.mnemonic ∧ r.matches (encode i).cmd = true

/-- A row that is found by its place in the opcode map. -/
theorem of_row (n : Nat) (r : TableRow) {i : Instr} (hr : opcodeTable[n]? = some r)
    (hm : r.mnemonic = i.mnemonic) (hw : r.matches (encode i).cmd = true) : Statement i :=
  ⟨r, List.mem_of_getElem? hr, hm, hw⟩

/-- A row matches a command word by its bits under the mask. -/
theorem matches_of_cmd {r : TableRow} {c : Command} {cmd : CmdWord} (hc : c.cmd = cmd)
    (h : cmd &&& r.mask = r.matchBits) : r.matches c.cmd = true := by
  simp [TableRow.matches, hc, h]

/-- The two rows with an IDX field admit every index. -/
theorem matches_every_idx (idx : BitVec 5) :
    (encodeCmd 0x8#4 idx &&& 0xFFE0#16) = 0x8000#16 ∧
      (encodeCmd 0x9#4 idx &&& 0xFFE0#16) = 0x9000#16 := by
  revert idx
  decide

theorem cpuReset : Statement .cpuReset := of_row 0 _ rfl rfl rfl
theorem clearRegs : Statement .clearRegs := of_row 1 _ rfl rfl rfl
theorem incPc : Statement .incPc := of_row 2 _ rfl rfl rfl
theorem memWrite (addr data : Word) : Statement (.memWrite addr data) :=
  of_row 3 _ rfl rfl (matches_of_cmd (cmd := encodeCmd 0x3#4 0#5) rfl (by decide))
theorem memRead (addr : Word) : Statement (.memRead addr) :=
  of_row 4 _ rfl rfl (matches_of_cmd (cmd := encodeCmd 0x4#4 0#5) rfl (by decide))
theorem memClear : Statement .memClear := of_row 5 _ rfl rfl rfl
theorem biosLoad (fw : FwAnswer) : Statement (.biosLoad fw) :=
  of_row 6 _ rfl rfl (matches_of_cmd (cmd := encodeCmd 0x6#4 0#5) rfl (by decide))
theorem biosRead (addr : Word) : Statement (.biosRead addr) :=
  of_row 7 _ rfl rfl (matches_of_cmd (cmd := encodeCmd 0x7#4 0#5) rfl (by decide))
theorem gprRead (idx : BitVec 5) : Statement (.gprRead idx) :=
  of_row 8 _ rfl rfl (matches_of_cmd rfl (matches_every_idx idx).1)
theorem gprWrite (idx : BitVec 5) (data : Word) : Statement (.gprWrite idx data) :=
  of_row 9 _ rfl rfl (matches_of_cmd rfl (matches_every_idx idx).2)
theorem hiRead : Statement .hiRead := of_row 10 _ rfl rfl rfl
theorem hiWrite (data : Word) : Statement (.hiWrite data) :=
  of_row 11 _ rfl rfl (matches_of_cmd (cmd := encodeCmd 0xB#4 0#5) rfl (by decide))
theorem loRead : Statement .loRead := of_row 12 _ rfl rfl rfl
theorem loWrite (data : Word) : Statement (.loWrite data) :=
  of_row 13 _ rfl rfl (matches_of_cmd (cmd := encodeCmd 0xD#4 0#5) rfl (by decide))
theorem pcRead : Statement .pcRead := of_row 14 _ rfl rfl rfl
theorem pcWrite (data : Word) : Statement (.pcWrite data) :=
  of_row 15 _ rfl rfl (matches_of_cmd (cmd := encodeCmd 0xF#4 0#5) rfl (by decide))

end Sys2Proof.Laws.TableRow
end

