-- ==== Sys2Proof/Tests/Slice0.lean ====
section
/-! SUPPORT. The model's own tests. Expected results come from 30_encoding.md R83 (the command words)
and 95_test_vectors.md (M1 to M12, B1 to B20, C1 to C10, E1 to E6), named in each section; and one
witness for the hypotheses of each statement of Certificates/Slice0/Obligations.lean. -/

namespace Sys2Proof.Tests

open Sys2Proof.Machine Sys2Proof.Config

/-- The next state, if there is one. -/
def after (o : Host.Outcome State Fault Refusal) : Option State :=
  match o with
  | .next t => some t
  | .fault _ | .refused _ => none

/-- A command with these buses. -/
def issued (cmd : CmdWord) : Command := ⟨cmd, 7#32, 9#32, .openError⟩

/-- Power-on with these commands issued. -/
def asking (cs : List Command) : State := { State.reset with requests := cs }

/-- The pattern `P` of 95_test_vectors.md: byte `i` is `i mod 256`. -/
def imageP : BiosImage := Vector.ofFn fun i => BitVec.ofNat 8 i

/-- A stream of `n` equal bytes. -/
def streamOf (n : Nat) : List Byte := List.replicate n 0x5A#8

theorem length_streamOf (n : Nat) : (streamOf n).length = n := List.length_replicate

/-- Power-on with the image `P` and the given guard. -/
def loaded (g : BiosGuard) : State := { State.reset with bios := some imageP, biosGuard := g }

/-- The block after the fatal write of M5. -/
def haltedBlock : State :=
  { State.reset with
    halted := true, faultCode := 2#3, faultAddr := 5242880#32, faultLimit := 5242880#32
    response := ⟨.fatalWriteOor, none⟩ }

/-- The CPU state of C5. -/
def dirty : State :=
  { State.reset with
    pc := 0x10#32, gprs := Vector.ofFn (fun i => BitVec.ofNat 32 (i + 1)), hi := 9#32, lo := 8#32
    mem := [(0, 3#32)] }

/-! ### WellFormed: each check refuses an ill-formed command word (30_encoding.md R87) -/

theorem test_wellFormed_refuses_rsv : (issued 0x0800#16).wellFormed = false := by decide
theorem test_wellFormed_refuses_idx : (issued 0x2001#16).wellFormed = false := by decide
theorem test_wellFormed_admits_gprRead_x31 : (issued 0x801F#16).wellFormed = true := by decide

/-! ### Decode: the words of 30_encoding.md R83 -/

theorem test_decode_cpuReset : decode (issued 0b0000000000000000#16) = some .cpuReset := by decide
theorem test_decode_clearRegs : decode (issued 0b0001000000000000#16) = some .clearRegs := by decide
theorem test_decode_incPc : decode (issued 0b0010000000000000#16) = some .incPc := by decide
theorem test_decode_memWrite :
    decode (issued 0b0011000000000000#16) = some (.memWrite 7#32 9#32) := by decide
theorem test_decode_memRead : decode (issued 0b0100000000000000#16) = some (.memRead 7#32) := by decide
theorem test_decode_memClear : decode (issued 0b0101000000000000#16) = some .memClear := by decide
theorem test_decode_biosLoad :
    decode ⟨0b0110000000000000#16, 7#32, 9#32, .stream [1#8] .err⟩ =
      some (.biosLoad (.stream [1#8] .err)) := by decide
theorem test_decode_biosRead :
    decode (issued 0b0111000000000000#16) = some (.biosRead 7#32) := by decide
theorem test_decode_gprRead :
    decode (issued 0b1000000000010011#16) = some (.gprRead 19#5) := by decide
theorem test_decode_gprWrite :
    decode (issued 0b1001000000011111#16) = some (.gprWrite 31#5 9#32) := by decide
theorem test_decode_hiRead : decode (issued 0b1010000000000000#16) = some .hiRead := by decide
theorem test_decode_hiWrite : decode (issued 0b1011000000000000#16) = some (.hiWrite 9#32) := by decide
theorem test_decode_loRead : decode (issued 0b1100000000000000#16) = some .loRead := by decide
theorem test_decode_loWrite : decode (issued 0b1101000000000000#16) = some (.loWrite 9#32) := by decide
theorem test_decode_pcRead : decode (issued 0b1110000000000000#16) = some .pcRead := by decide
theorem test_decode_pcWrite : decode (issued 0b1111000000000000#16) = some (.pcWrite 9#32) := by decide

/-- E1, E2, E3, E5. -/
theorem test_decode_refuses_reserved :
    [0x0020#16, 0x0800#16, 0x8020#16, 0x2001#16].map (fun w => decode (issued w)) =
      [none, none, none, none] := by decide

/-- A table word is read with CMD in its lowest 16 bits, and runs as the next command. -/
theorem test_withFetchWord_runs_the_word :
    decodeTableWord 16 0x901F = some (.gprWrite 31#5 0#32) ∧
      (after (step (State.reset.withFetchWord 16 0x2000))).map State.pc = some 0xBFC00004#32 := by decide

/-! ### Memory: M1, M5, M6, M8 to M11 -/

/-- M10. -/
theorem test_memWrite_replaces :
    (after (exec (.memWrite 5#32 2#32) { State.reset with mem := [(5, 1#32)] })).map
      (fun t => (t.mem, t.response.status)) = some ([(5, 2#32)], .ok) := by decide
/-- M6: the low 23 bits of the index are 0. -/
theorem test_memWrite_halts_out_of_range :
    (after (exec (.memWrite 0x00800000#32 1#32) State.reset)).map
      (fun t => (t.statusWord, t.faultCode, t.faultAddr, t.faultLimit, t.rspStatus)) =
      some (1#32, 2#3, 0x00800000#32, 5242880#32, 2#3) := by decide
/-- M1: an entry never written is present and 0. -/
theorem test_memRead_unwritten_is_present :
    (after (exec (.memRead 0#32) State.reset)).map State.response = some ⟨.ok, some 0#32⟩ := by decide
/-- M8. -/
theorem test_memRead_out_of_range :
    (after (exec (.memRead 5242880#32) State.reset)).map (fun t => (t.rspStatus, t.rspData, t.halted)) =
      some (1#3, 0#32, false) := by decide
/-- M11. -/
theorem test_memClear :
    (after (exec .memClear { State.reset with mem := [(0, 7#32), (5242879, 7#32)] })).map
      (fun t => (t.mem.read 0, t.mem.read 5242879)) = some (0#32, 0#32) := by decide
/-- Writing what an unlisted index reads as removes the pair. -/
theorem test_memory_canonical_write :
    Memory.write [(3, 9#32), (5, 1#32)] 3 0#32 = [(5, 1#32)] ∧
      Memory.write [(3, 9#32), (5, 1#32)] 4 2#32 = [(3, 9#32), (4, 2#32), (5, 1#32)] := by decide

/-! ### BIOS: B1, B3, B5, B6, B8, B11 to B13, B15, B17 to B19 -/

/-- B3 and B5, with a short stream. -/
theorem test_biosLoad_short_stream :
    (after (exec (.biosLoad (.stream [1#8] .eof)) State.reset)).map State.rspStatus = some 4#3 ∧
      (after (exec (.biosLoad (.stream [1#8] .err)) State.reset)).map State.rspStatus = some 3#3 := by
  decide
/-- B6: a stream of exactly the image's size succeeds whatever its end. -/
theorem test_biosLoad_full_stream :
    (after (exec (.biosLoad (.stream (streamOf 524288) .err)) State.reset)).map
      (fun t => (t.biosValid, t.rspStatus)) = some (true, 0#3) := by
  rw [exec_iff_effect.mpr (.biosLoadImage rfl (length_streamOf 524288).ge)]
  rfl
/-- B8. -/
theorem test_biosLoad_again_is_refused :
    (after (exec (.biosLoad .openError) (loaded .corrected))).map
      (fun t => (t.statusWord, t.rspStatus)) = some (6#32, 5#3) := by decide
/-- B1. -/
theorem test_biosRead_without_image :
    (after (exec (.biosRead 0#32) State.reset)).map (fun t => (t.statusWord, t.rspStatus)) =
      some (4#32, 5#3) := by decide
/-- B11 and B12: an unaligned offset, and the last word. -/
theorem test_biosRead_words :
    biosWord imageP 255 (by decide) = 0x020100FF#32 ∧
      biosWord imageP 524284 (by decide) = 0xFFFEFDFC#32 := by
  simp [biosWord, imageP]
/-- B12, B13 and B15. -/
theorem test_biosRead_corrected_boundary :
    ([524284#32, 524285#32, 0xFFFFFFFE#32].map fun o =>
      (after (exec (.biosRead o) (loaded .corrected))).map State.rspStatus) =
      [some 0#3, some 1#3, some 1#3] := by decide
/-- B17, B18 and B19. -/
theorem test_biosRead_literal_boundary :
    ([524283#32, 524284#32, 524285#32].map fun o =>
      (after (exec (.biosRead o) (loaded .literal))).map fun t =>
        (t.rspStatus, t.halted, t.faultAddr, t.faultLimit)) =
      [some (1#3, false, 0#32, 0#32), some (0#3, false, 0#32, 0#32),
        some (6#3, true, 524285#32, 524288#32)] := by decide

/-! ### CPU and ports: C3 to C10 -/

/-- C6. -/
theorem test_cpuReset :
    (after (exec .cpuReset { dirty with bios := some imageP })).map
      (fun t => ([t.pc, readGpr 31#5 t, t.hi, t.lo], t.mem, t.biosValid)) =
      some ([0xBFC00000#32, 0#32, 0#32, 0#32], [], true) := by decide
/-- C5. -/
theorem test_clearRegs :
    (after (exec .clearRegs dirty)).map
      (fun t => ([readGpr 0#5 t, readGpr 31#5 t, t.hi, t.lo, t.pc], t.mem)) =
      some ([0#32, 0#32, 9#32, 8#32, 0x10#32], [(0, 3#32)]) := by decide
/-- C3 and C4. -/
theorem test_incPc_wraps :
    (after (exec .incPc { State.reset with pc := 0xFFFFFFFC#32 })).map State.pc = some 0#32 ∧
      (after (exec .incPc { State.reset with pc := 0xFFFFFFFE#32 })).map State.pc = some 2#32 := by
  decide
/-- C7: x0 is not hard-wired. -/
theorem test_gprWrite_x0 :
    (after (exec (.gprWrite 0#5 0xFFFFFFFF#32) State.reset)).map
      (fun t => (readGpr 0#5 t, readGpr 1#5 t)) = some (0xFFFFFFFF#32, 0#32) := by decide
/-- C5's registers. -/
theorem test_gprRead :
    (after (exec (.gprRead 31#5) dirty)).map State.response = some ⟨.ok, some 32#32⟩ := by decide
/-- C9. -/
theorem test_hiWrite :
    (after (exec (.hiWrite 1#32) State.reset)).map (fun t => (t.hi, t.lo)) = some (1#32, 0#32) := by
  decide
theorem test_hiRead : (after (exec .hiRead dirty)).map State.rspData = some 9#32 := by decide
theorem test_loWrite :
    (after (exec (.loWrite 1#32) State.reset)).map (fun t => (t.hi, t.lo)) = some (0#32, 1#32) := by
  decide
theorem test_loRead : (after (exec .loRead dirty)).map State.rspData = some 8#32 := by decide
/-- C10: a misaligned value is stored. -/
theorem test_pcWrite :
    (after (exec (.pcWrite 2#32) State.reset)).map State.pc = some 2#32 := by decide
theorem test_pcRead :
    (after (exec .pcRead State.reset)).map State.rspData = some 0xBFC00000#32 := by decide

/-! ### Acceptance: E2, E5, E6 -/

/-- E5: refused, and pc stays. -/
theorem test_step_refuses_reserved :
    (after (step (asking [issued 0x2001#16]))).map (fun t => (t.statusWord, t.rspStatus, t.pc, t.requests)) =
      some (4#32, 5#3, 0xBFC00000#32, []) := by decide
/-- E6. -/
theorem test_step_halted : step { haltedBlock with requests := [issued 0#16] } = .fault .halted := rfl

/-! ### Witnesses: a concrete state and operands that meet a statement's hypotheses -/

/-- PowerOnStateHoldsTheSpecifiedValues, HaltedBlockTakesNoCommand. -/
theorem witness_halted : haltedBlock.halted = true := rfl

/-- IdleBlockKeepsItsState, RunningBlockAlwaysAnswersItsNextCommand, and every statement whose one
hypothesis is a running block. -/
theorem witness_running_idle : State.reset.halted = false ∧ State.reset.requests = [] := ⟨rfl, rfl⟩

/-- StepKeepsTheInvariant: a step that stores, at the last index. -/
theorem witness_inv_step :
    (asking [⟨0x3000#16, 5242879#32, 1#32, .openError⟩]).Inv ∧
      ∃ t, step (asking [⟨0x3000#16, 5242879#32, 1#32, .openError⟩]) = .next t ∧
        t.mem = [(5242879, 1#32)] :=
  ⟨⟨rfl, fun _ => ⟨rfl, rfl, rfl, rfl⟩, nofun, nofun, nofun⟩, _, rfl, by decide⟩

/-- StepKeepsTheInvariant: a step that halts, at the first index out of range. -/
theorem witness_inv_step_halts :
    (asking [⟨0x3000#16, 5242880#32, 1#32, .openError⟩]).Inv ∧
      ∃ t, step (asking [⟨0x3000#16, 5242880#32, 1#32, .openError⟩]) = .next t ∧ t.halted = true :=
  ⟨⟨rfl, fun _ => ⟨rfl, rfl, rfl, rfl⟩, nofun, nofun, nofun⟩, _, rfl, by decide⟩

/-- StepRunsTheDecodedCommand, EncodeInvertsDecode, RefusalHasThreeReasonsAndOneEffect (its step),
StatusCodesAreProducedByTheirOwnCommands, ResponseCarriesAWordOnlyForACompletedRead. -/
theorem witness_step_decoded :
    (asking [issued 0x4000#16]).halted = false ∧
      (asking [issued 0x4000#16]).requests = issued 0x4000#16 :: [] ∧
      decode (issued 0x4000#16) = some (.memRead 7#32) ∧
      ∃ t, step (asking [issued 0x4000#16]) = .next t ∧ t.response = ⟨.ok, some 0#32⟩ :=
  ⟨rfl, rfl, by decide, _, rfl, by decide⟩

/-- RefusalHasThreeReasonsAndOneEffect: one step for each reason. -/
theorem witness_refusals :
    [asking [issued 0x2001#16], asking [issued 0x7000#16],
      { loaded .corrected with requests := [issued 0x6000#16] }].map
        (fun s => (after (step s)).map State.rspStatus) = [some 5#3, some 5#3, some 5#3] := by decide

/-- ReservedCommandWordIsRefused: reserved by the lowest RSV bit, by the highest, by IDX; and the
boundary of what is not reserved. -/
theorem witness_reserved :
    (0x0020#16).extractLsb' 5 7 ≠ 0#7 ∧ (0x0800#16).extractLsb' 5 7 ≠ 0#7 ∧
      ((0x7001#16).extractLsb' 0 5 ≠ 0#5 ∧ (0x7001#16).extractLsb' 12 4 ≠ 0x8#4 ∧
        (0x7001#16).extractLsb' 12 4 ≠ 0x9#4) ∧
      (0x901F#16).extractLsb' 5 7 = 0#7 ∧ (0x901F#16).extractLsb' 12 4 = 0x9#4 := by decide

/-- IgnoredBusesDoNotMatter. -/
theorem witness_ignored_buses :
    decode (issued 0x4000#16) = some (.memRead 7#32) ∧
      (⟨0x4000#16, 7#32, 1#32, .stream [] .eof⟩ : Command).cmd = (issued 0x4000#16).cmd ∧
      (Instr.memRead 7#32).usesData = false ∧ (Instr.memRead 7#32).usesFw = false := by decide

/-- MemWriteStoresInRangeAndHaltsOutOfRange, MemReadAnswersTheWordOrNotPresent,
ReadRightAfterWriteSeesTheValue: both sides of the range. -/
theorem witness_memory_range :
    (5242879#32).toNat < 5242880 ∧ 5242880 ≤ (5242880#32).toNat ∧ 5242880 ≤ (0xFFFFFFFF#32).toNat := by
  decide

/-- MemReadAnswersTheLatestWrite, PcStaysAlignedUnlessPcWriteBreaksIt, StatusBitsAreClearedByNothing,
CommandsApplyOneAtATimeInIssueOrder: commands that the block takes, the last one being the latest
write. -/
theorem witness_issues :
    ∃ t, Issues [issued 0x3000#16, issued 0x2000#16] State.reset t ∧ t.halted = false ∧
      t.mem = [(7, 9#32)] ∧ State.reset.pc.toNat % 4 = 0 ∧
      latestWord 7 0#32 [issued 0x3000#16, issued 0x2000#16] = 9#32 :=
  ⟨_, rfl, by decide, by decide, by decide, by decide⟩

/-- StatusBitsAreClearedByNothing: the bits that are set, and a command taken with them set. -/
theorem witness_status_bits :
    ∃ t, Issues [issued 0x2000#16] { loaded .corrected with refused := true } t ∧
      t.statusWord = 6#32 :=
  ⟨_, rfl, by decide⟩

/-- PcStaysAlignedUnlessPcWriteBreaksIt: an aligned PC_WRITE meets its hypothesis on DATA. -/
theorem witness_pcWrite_aligned :
    decode ⟨0xF000#16, 0#32, 0xFFFFFFFC#32, .openError⟩ = some (.pcWrite 0xFFFFFFFC#32) ∧
      (0xFFFFFFFC#32).toNat % 4 = 0 := by decide

/-- MemoryIsReachedOnlyByItsCommands, BiosImageIsReadOnlyOnceLoaded (its third part). -/
theorem witness_other_commands :
    Instr.incPc.reachesMemory = false ∧ (Instr.biosRead 0#32).reachesMemory = false ∧
      Instr.cpuReset.isBios = false ∧ (Instr.memWrite 5242880#32 0#32).isBios = false := by decide

/-- BiosLoadBuildsTheImageOrFails, BiosLoadIgnoresBytesPastTheImage: both sides of the stream's length,
and both states of `B`. -/
theorem witness_bios_load :
    (streamOf 524288).length = 524288 ∧ (streamOf 524287).length < 524288 ∧
      State.reset.bios = none ∧ (loaded .corrected).bios ≠ none :=
  ⟨length_streamOf _, by rw [length_streamOf]; decide, rfl, nofun⟩

/-- BiosReadUnderTheCorrectedGuard, BiosReadChangesNoStateButOnTheFatalPath. -/
theorem witness_bios_read_corrected :
    (loaded .corrected).halted = false ∧ (loaded .corrected).biosGuard = .corrected ∧
      (loaded .corrected).bios = some imageP ∧ (524284#32).toNat + 3 < 524288 ∧
      524288 < (524285#32).toNat + 4 :=
  ⟨rfl, rfl, rfl, by decide, by decide⟩

/-- BiosReadUnderTheLiteralGuard: its three ranges at their boundaries; no image under that guard. -/
theorem witness_bios_read_literal :
    (loaded .literal).halted = false ∧ (loaded .literal).biosGuard = .literal ∧
      (loaded .literal).bios = some imageP ∧
      ({ State.reset with biosGuard := .literal } : State).bios = none ∧
      (524283#32).toNat + 4 < 524288 ∧ (524284#32).toNat + 4 = 524288 ∧
      524288 < (524285#32).toNat + 4 :=
  ⟨rfl, rfl, rfl, rfl, by decide, by decide, by decide⟩

/-- BiosWordIsLittleEndian, NeighbouringBiosWordsOverlap. -/
theorem witness_bios_offsets : 524284 + 3 < biosSize ∧ 524283 + 1 + 3 < 524288 := by decide

/-- BiosImageIsReadOnlyOnceLoaded: a step with an image, and a step that makes one. -/
theorem witness_bios_steps :
    (∃ t, step { loaded .corrected with requests := [issued 0x0000#16] } = .next t) ∧
      ∃ t, step (asking [⟨0x6000#16, 0#32, 0#32, .stream (streamOf 524288) .eof⟩]) = .next t ∧
        State.reset.bios = none ∧ t.bios ≠ none :=
  ⟨⟨_, rfl⟩, _, exec_iff_effect.mpr (.biosLoadImage (s := State.reset) rfl (length_streamOf 524288).ge),
    rfl, nofun⟩

/-- PcPortsReadAndWritePc, RegistersChangeOnlyByTheirOwnCommands: a command that changes each. -/
theorem witness_register_changes :
    (∃ t, exec (.pcWrite 1#32) State.reset = .next t ∧ t.pc ≠ State.reset.pc) ∧
      (∃ t, exec (.hiWrite 1#32) State.reset = .next t ∧ t.hi ≠ State.reset.hi) ∧
      (∃ t, exec (.loWrite 1#32) State.reset = .next t ∧ t.lo ≠ State.reset.lo) ∧
      ∃ t, exec (.gprWrite 3#5 1#32) State.reset = .next t ∧
        readGpr 3#5 t ≠ readGpr 3#5 State.reset :=
  ⟨⟨_, rfl, by decide⟩, ⟨_, rfl, by decide⟩, ⟨_, rfl, by decide⟩, ⟨_, rfl, by decide⟩⟩

/-- ReadsHaveNoSideEffect: BIOS_READ under either guard, at the last word. -/
theorem witness_reads :
    (Instr.biosRead 524284#32).isRead = true ∧ (loaded .literal).bios ≠ none ∧
      (524284#32).toNat ≤ 524284 :=
  ⟨rfl, nofun, by decide⟩

/-- FatalFaultIsRecordedAndPrecise: both fatal commands. -/
theorem witness_fatal :
    (∃ t, exec (.memWrite 5242880#32 1#32) State.reset = .next t ∧ t.halted = true) ∧
      ∃ t, exec (.biosRead 524285#32) (loaded .literal) = .next t ∧ t.halted = true :=
  ⟨⟨_, rfl, by decide⟩, _, rfl, by decide⟩

end Sys2Proof.Tests
end

section
/-! What each element of the state can become under a command: one inversion lemma per element, by the
cases of `Effect`. Proofs about steps and runs cite these and take no cases on `Effect` again. -/

namespace Sys2Proof.Machine

open Sys2Proof.Config

/-- The block `t` is halted or not as `s` is, and FAULT_* holds the same record (10_state.md R33). -/
structure SameFault (s t : State) : Prop where
  halted : t.halted = s.halted
  code   : t.faultCode = s.faultCode
  addr   : t.faultAddr = s.faultAddr
  limit  : t.faultLimit = s.faultLimit

namespace Effect

variable {i : Instr} {s t : State}

/-- Only the two fatal faults touch HALTED and FAULT_* or answer a fatal code (60_exceptions.md R171,
R172). -/
theorem fault_cases (h : Effect i s t) :
    (SameFault s t ∧ t.response.status.isFatal = false) ∨
    (∃ addr data, i = .memWrite addr data ∧ memWords ≤ addr.toNat ∧
      t = raiseFatal .writeOutOfRange addr s) ∨
    (∃ addr, i = .biosRead addr ∧ s.biosGuard = .literal ∧ s.bios.isSome = true ∧
      biosSize < addr.toNat + 4 ∧ t = raiseFatal .biosBeyond addr s) := by
  cases h with
  | memWriteHalts h => exact .inr (.inl ⟨_, _, rfl, h, rfl⟩)
  | biosReadHalts hb hg h => exact .inr (.inr ⟨_, rfl, hg, by simp [hb], h, rfl⟩)
  | _ => exact .inl ⟨⟨rfl, rfl, rfl, rfl⟩, rfl⟩

/-- Only a BIOS command on the wrong presence of the image is refused by its own rule, and only a refusal
touches STATUS.REFUSED (60_exceptions.md R175). -/
theorem refusal_cases (h : Effect i s t) :
    (t.refused = s.refused ∧ t.response.status ≠ .refused) ∨
    (∃ fw, i = .biosLoad fw ∧ s.bios.isSome = true ∧ t = refuse .biosAlreadyLoaded s) ∨
    (∃ addr, i = .biosRead addr ∧ s.bios = none ∧ t = refuse .biosNotLoaded s) := by
  cases h with
  | biosLoadRefused hb => exact .inr (.inl ⟨_, rfl, by simp [hb], rfl⟩)
  | biosReadRefused hb => exact .inr (.inr ⟨_, rfl, hb, rfl⟩)
  | _ => exact .inl ⟨rfl, nofun⟩

/-- Only an OK response carries a word (30_encoding.md R84). -/
theorem status_ok_of_word (h : Effect i s t) (hw : t.response.word.isSome = true) :
    t.response.status = .ok := by
  cases h with
  | memReadWord | biosReadWord | gprRead | hiRead | loRead | pcRead => rfl
  | _ => exact absurd hw nofun

/-- Every command keeps the Memory's canonical form (10_state.md R28). -/
theorem keeps_mem_wf (h : Effect i s t) (hs : s.mem.wf = true) : t.mem.wf = true := by
  cases h with
  | cpuReset | memClear => exact Memory.wf_newEmpty
  | memWriteStores h => exact Memory.wf_write _ h hs
  | _ => exact hs

/-- Only BIOS_LOAD of an absent image touches `B` (10_state.md R32). -/
theorem bios_cases (h : Effect i s t) :
    t.bios = s.bios ∨ (s.bios = none ∧ ∃ fw, i = .biosLoad fw) := by
  cases h with
  | biosLoadImage hb => exact .inr ⟨hb, _, rfl⟩
  | _ => exact .inl rfl

/-- Only INC_PC, CPU_RESET and PC_WRITE touch pc (10_state.md R23; 42_cpu_ops.md R150). -/
theorem pc_cases (h : Effect i s t) :
    t.pc = s.pc ∨ (i = .incPc ∧ t.pc = advancedPc s.pc) ∨ (i = .cpuReset ∧ t.pc = resetVector) ∨
    i = .pcWrite t.pc := by
  cases h with
  | incPc => exact .inr (.inl ⟨rfl, rfl⟩)
  | cpuReset => exact .inr (.inr (.inl ⟨rfl, rfl⟩))
  | pcWrite => exact .inr (.inr (.inr rfl))
  | _ => exact .inl rfl

/-- Only HI_WRITE and CPU_RESET touch HI (10_state.md R26). -/
theorem hi_cases (h : Effect i s t) : t.hi = s.hi ∨ i = .cpuReset ∨ i = .hiWrite t.hi := by
  cases h with
  | cpuReset => exact .inr (.inl rfl)
  | hiWrite => exact .inr (.inr rfl)
  | _ => exact .inl rfl

/-- Only LO_WRITE and CPU_RESET touch LO (10_state.md R26). -/
theorem lo_cases (h : Effect i s t) : t.lo = s.lo ∨ i = .cpuReset ∨ i = .loWrite t.lo := by
  cases h with
  | cpuReset => exact .inr (.inl rfl)
  | loWrite => exact .inr (.inr rfl)
  | _ => exact .inl rfl

/-- Only CPU_RESET, CLEAR_REGS and GPR_WRITE of its own index touch a register (10_state.md R22). -/
theorem readGpr_cases (h : Effect i s t) (j : BitVec 5) :
    readGpr j t = readGpr j s ∨ i = .cpuReset ∨ i = .clearRegs ∨ i = .gprWrite j (readGpr j t) := by
  cases h with
  | cpuReset => exact .inr (.inl rfl)
  | clearRegs => exact .inr (.inr (.inl rfl))
  | @gprWrite _ idx data =>
    rw [readGpr_congr (respondDone_gprs _)]
    by_cases hj : j = idx
    · subst hj
      rw [readGpr_writeGpr_same]
      exact .inr (.inr (.inr rfl))
    · exact .inl (readGpr_writeGpr_other s data hj)
  | _ => exact .inl (readGpr_congr rfl j)

/-- Outside 10_state.md R30's four commands the Memory is left as it is and plays no part. -/
theorem exchange_mem (h : Effect i s t) (hi : i.reachesMemory = false) (m : Memory) :
    t.mem = s.mem ∧ Effect i { s with mem := m } { t with mem := m } := by
  cases h with
  | cpuReset | memWriteStores | memWriteHalts | memReadWord | memReadAbsent | memClear => cases hi
  | biosLoadRefused hb => exact ⟨rfl, .biosLoadRefused hb⟩
  | biosLoadOpenError hb => exact ⟨rfl, .biosLoadOpenError hb⟩
  | biosLoadImage hb hl => exact ⟨rfl, .biosLoadImage (s := { s with mem := m }) hb hl⟩
  | biosLoadReadError hb hl => exact ⟨rfl, .biosLoadReadError hb hl⟩
  | biosLoadShort hb hl => exact ⟨rfl, .biosLoadShort hb hl⟩
  | biosReadRefused hb => exact ⟨rfl, .biosReadRefused hb⟩
  | biosReadWord hb hk hg => exact ⟨rfl, .biosReadWord (s := { s with mem := m }) hb hk hg⟩
  | biosReadPastCorrected hb hg hk => exact ⟨rfl, .biosReadPastCorrected hb hg hk⟩
  | biosReadInnerLiteral hb hg hk => exact ⟨rfl, .biosReadInnerLiteral hb hg hk⟩
  | biosReadHalts hb hg hk => exact ⟨rfl, .biosReadHalts hb hg hk⟩
  | clearRegs | incPc | gprRead | gprWrite | hiRead | hiWrite | loRead | loWrite | pcRead
  | pcWrite => exact ⟨rfl, by constructor⟩

/-- Outside the BIOS commands `B` is left as it is and plays no part (10_state.md R32). -/
theorem exchange_bios (h : Effect i s t) (hi : i.isBios = false) (b : Option BiosImage) :
    t.bios = s.bios ∧ Effect i { s with bios := b } { t with bios := b } := by
  cases h with
  | biosLoadRefused | biosLoadOpenError | biosLoadImage | biosLoadReadError | biosLoadShort
  | biosReadRefused | biosReadWord | biosReadPastCorrected | biosReadInnerLiteral | biosReadHalts =>
    cases hi
  | memWriteStores hk => exact ⟨rfl, .memWriteStores hk⟩
  | memWriteHalts hk => exact ⟨rfl, .memWriteHalts hk⟩
  | memReadWord hk => exact ⟨rfl, .memReadWord hk⟩
  | memReadAbsent hk => exact ⟨rfl, .memReadAbsent hk⟩
  | cpuReset | clearRegs | incPc | memClear | gprRead | gprWrite | hiRead | hiWrite | loRead | loWrite
  | pcRead | pcWrite => exact ⟨rfl, by constructor⟩

end Effect

end Sys2Proof.Machine
end

section
/-! Runs: a step takes one request, so `Issues` goes command by command, and a property that every step
keeps holds at the end. -/

namespace Sys2Proof.Machine

/-- Each step takes the oldest request from the list (20_memory.md R58). -/
theorem step_requests {s t : State} (h : step s = .next t) : t.requests = s.requests.tail := by
  rcases step_cases h with ⟨-, hr, rfl⟩ | ⟨c, rest, -, hr, -, rfl⟩ | ⟨c, rest, i, -, hr, -, hx⟩
  · simp [hr]
  · simp [hr]
  · simp [hr, (effect_of_exec hx).keeps_inputs]

/-- A run of no command only sets the list. -/
theorem issues_nil {s t : State} : Issues [] s t ↔ t = { s with requests := [] } :=
  ⟨fun h => (Host.Outcome.next.inj h).symm, fun h => h ▸ rfl⟩

/-- A run of commands is a step that takes the first and a run of the others (20_memory.md R64). -/
theorem issues_cons {c : Command} {cs : List Command} {s t : State} :
    Issues (c :: cs) s t ↔ ∃ u, step { s with requests := c :: cs } = .next u ∧ Issues cs u t := by
  have hrun : Issues (c :: cs) s t ↔ ∃ u, step { s with requests := c :: cs } = .next u ∧
      Host.Core.run Sys2Proof.core cs.length u = .next t := by
    simp only [Issues, List.length_cons, Host.Core.run, Sys2Proof.core]
    cases step { s with requests := c :: cs } <;> simp
  rw [hrun]
  refine exists_congr fun u => and_congr_right fun hu => ?_
  have hset : { u with requests := cs } = u := by rw [← show u.requests = cs from step_requests hu]
  rw [Issues, hset]

/-- What issuing keeps and every step that takes one of the commands keeps holds at the end of a run. -/
theorem Issues.keeps {P : State → Prop} (hissue : ∀ s cs, P s → P (takeRequest cs s))
    {cs : List Command}
    (hstep : ∀ c ∈ cs, ∀ s t rest, s.requests = c :: rest → step s = .next t → P s → P t)
    {s t : State} (h : Issues cs s t) (hs : P s) : P t := by
  induction cs generalizing s with
  | nil => exact issues_nil.mp h ▸ hissue s [] hs
  | cons c cs ih =>
    obtain ⟨u, hu, ht⟩ := issues_cons.mp h
    have hPu : P u := hstep c (by simp) _ u cs rfl hu (hissue s _ hs)
    exact ih (fun d hd => hstep d (by simp [hd])) ht hPu

end Sys2Proof.Machine
end

section
/-! The legal states (`State.Inv`): each way a step can end keeps the invariant. -/

namespace Sys2Proof.Machine

open Sys2Proof.Config

/-- The record that a fatal write leaves (60_exceptions.md R171, R172). -/
theorem raiseFatal_fatalWriteRecorded {addr : Word} (s : State) (h : memWords ≤ addr.toNat) :
    (raiseFatal .writeOutOfRange addr s).FatalWriteRecorded :=
  ⟨rfl, h, rfl, rfl⟩

/-- The record that a fatal read leaves (60_exceptions.md R171, R172). -/
theorem raiseFatal_fatalReadRecorded {addr : Word} {s : State} (h : biosSize < addr.toNat + 4)
    (hg : s.biosGuard = .literal) (hb : s.bios.isSome = true) :
    (raiseFatal .biosBeyond addr s).FatalReadRecorded :=
  ⟨rfl, h, rfl, rfl, hg, hb⟩

/-- A block that keeps its fault record and answers no fatal code still has no fault recorded. -/
theorem State.NoFaultRecorded.of_sameFault {s t : State} (hs : s.NoFaultRecorded) (h : SameFault s t)
    (hf : t.response.status.isFatal = false) : t.NoFaultRecorded := by
  obtain ⟨hcode, haddr, hlimit, -⟩ := hs
  exact ⟨h.code.trans hcode, h.addr.trans haddr, h.limit.trans hlimit, hf⟩

/-- Taking a request from the list concerns no clause of the invariant. -/
theorem State.Inv.takeRequest {s : State} (hs : s.Inv) (rest : List Command) :
    (takeRequest rest s).Inv :=
  ⟨hs.memory, hs.running, hs.halted, hs.word, hs.mark⟩

/-- A refusal on a running block keeps the invariant (60_exceptions.md R175). -/
theorem State.Inv.refuse {s : State} (hs : s.Inv) (hrun : s.halted = false) (r : RefuseReason) :
    (refuse r s).Inv where
  memory := hs.memory
  running _ := (hs.running hrun).of_sameFault ⟨rfl, rfl, rfl, rfl⟩ rfl
  halted hh := by simp [hrun] at hh
  word := nofun
  mark _ := rfl

/-- A refused response comes with the sticky mark (60_exceptions.md R175). -/
theorem Effect.refused_of_status {i : Instr} {s t : State} (h : Effect i s t)
    (ht : t.response.status = .refused) : t.refused = true := by
  rcases h.refusal_cases with ⟨-, hne⟩ | ⟨_, -, -, rfl⟩ | ⟨_, -, -, rfl⟩
  · exact absurd ht hne
  · rfl
  · rfl

/-- Every command that a running legal block takes leaves it legal. -/
theorem Effect.keeps_inv {i : Instr} {s t : State} (h : Effect i s t) (hrun : s.halted = false)
    (hs : s.Inv) : t.Inv where
  memory := h.keeps_mem_wf hs.memory
  running ht := by
    rcases h.fault_cases with ⟨hsame, hf⟩ | ⟨_, _, -, -, rfl⟩ | ⟨_, -, -, -, -, rfl⟩
    · exact (hs.running hrun).of_sameFault hsame hf
    · cases ht
    · cases ht
  halted ht := by
    rcases h.fault_cases with ⟨hsame, -⟩ | ⟨_, _, -, hk, rfl⟩ | ⟨_, -, hg, hb, hk, rfl⟩
    · simp [hsame.halted, hrun] at ht
    · exact .inl (raiseFatal_fatalWriteRecorded s hk)
    · exact .inr (raiseFatal_fatalReadRecorded hk hg hb)
  word := h.status_ok_of_word
  mark := h.refused_of_status

/-- Settles O3: an idle step, a reserved command word and a command's own effect each keep the
invariant. -/
theorem stepKeepsTheInvariant : Obligations.StepKeepsTheInvariant := by
  intro s t hs hstep
  rcases step_cases hstep with ⟨-, -, rfl⟩ | ⟨c, rest, hrun, -, -, rfl⟩ | ⟨c, rest, i, hrun, -, -, hx⟩
  · exact hs
  · exact (hs.takeRequest rest).refuse hrun _
  · exact (effect_of_exec hx).keeps_inv hrun (hs.takeRequest rest)

/-- Settles O2. -/
theorem powerOnMeetsTheInvariant : Obligations.PowerOnMeetsTheInvariant where
  memory := Memory.wf_reset
  running _ := ⟨rfl, rfl, rfl, rfl⟩
  halted := nofun
  word := nofun
  mark := nofun

end Sys2Proof.Machine
end

section
/-! STATUS and FAULT_* along a run (10_state.md R33), and the STATUS word. -/

namespace Sys2Proof.Machine

/-- From `s` to `t` no bit of STATUS was cleared, and if `t` is not halted FAULT_* is as it was. -/
structure StatusKept (s t : State) : Prop where
  refused   : s.refused = true → t.refused = true
  biosValid : s.biosValid = true → t.biosValid = true
  halted    : s.halted = true → t.halted = true
  fault     : t.halted = false →
    t.faultCode = s.faultCode ∧ t.faultAddr = s.faultAddr ∧ t.faultLimit = s.faultLimit

/-- A state keeps what it has. -/
theorem StatusKept.refl (s : State) : StatusKept s s := ⟨id, id, id, fun _ => ⟨rfl, rfl, rfl⟩⟩

/-- What is kept twice is kept. -/
theorem StatusKept.trans {s t u : State} (h : StatusKept s t) (h' : StatusKept t u) :
    StatusKept s u where
  refused := h'.refused ∘ h.refused
  biosValid := h'.biosValid ∘ h.biosValid
  halted := h'.halted ∘ h.halted
  fault hu := by
    have ht : t.halted = false := Bool.eq_false_iff.mpr fun ht => by simp [h'.halted ht] at hu
    obtain ⟨hcode, haddr, hlimit⟩ := h.fault ht
    obtain ⟨hcode', haddr', hlimit'⟩ := h'.fault hu
    exact ⟨hcode'.trans hcode, haddr'.trans haddr, hlimit'.trans hlimit⟩

/-- A change of the requester's list touches none of them. -/
theorem StatusKept.takeRequest {s t : State} (h : StatusKept s t) (cs : List Command) :
    StatusKept s (takeRequest cs t) :=
  ⟨h.refused, h.biosValid, h.halted, h.fault⟩

/-- A refusal sets its mark and touches nothing else of them (60_exceptions.md R175). -/
theorem StatusKept.refuse {s t : State} (h : StatusKept s t) (r : RefuseReason) :
    StatusKept s (refuse r t) :=
  ⟨fun _ => rfl, h.biosValid, h.halted, h.fault⟩

/-- The sticky mark stays (60_exceptions.md R175). -/
theorem Effect.keeps_refused {i : Instr} {s t : State} (h : Effect i s t) (hs : s.refused = true) :
    t.refused = true := by
  rcases h.refusal_cases with ⟨hr, -⟩ | ⟨_, -, -, rfl⟩ | ⟨_, -, -, rfl⟩
  · exact hr.trans hs
  · rfl
  · rfl

/-- Every command keeps STATUS and, unless it halts the block, FAULT_*. -/
theorem Effect.statusKept {i : Instr} {s t : State} (h : Effect i s t) : StatusKept s t where
  refused := h.keeps_refused
  biosValid hb := by
    rcases h.bios_cases with e | ⟨e, -⟩
    · simpa [State.biosValid, e] using hb
    · simp [State.biosValid, e] at hb
  halted hh := by
    rcases h.fault_cases with ⟨hsame, -⟩ | ⟨_, _, -, -, rfl⟩ | ⟨_, -, -, -, -, rfl⟩
    · exact hsame.halted.trans hh
    · rfl
    · rfl
  fault hh := by
    rcases h.fault_cases with ⟨hsame, -⟩ | ⟨_, _, -, -, rfl⟩ | ⟨_, -, -, -, -, rfl⟩
    · exact ⟨hsame.code, hsame.addr, hsame.limit⟩
    · cases hh
    · cases hh

/-- Every step keeps STATUS and, unless it halts the block, FAULT_*. -/
theorem statusKept_of_step {s t : State} (h : step s = .next t) : StatusKept s t := by
  have htaken (rest : List Command) : StatusKept s (takeRequest rest s) :=
    (StatusKept.refl s).takeRequest rest
  rcases step_cases h with ⟨-, -, rfl⟩ | ⟨c, rest, -, -, -, rfl⟩ | ⟨c, rest, i, -, -, -, hx⟩
  · exact .refl t
  · exact (htaken rest).refuse _
  · exact (htaken rest).trans (effect_of_exec hx).statusKept

/-- Settles O46: `StatusKept s` holds at `s`, and issuing and every step keep it. -/
theorem statusBitsAreClearedByNothing : Obligations.StatusBitsAreClearedByNothing := by
  intro cs s t h
  have hkept : StatusKept s t := h.keeps (fun _ ds hu => hu.takeRequest ds)
    (fun _ _ _ _ _ _ hstep hu => hu.trans (statusKept_of_step hstep)) (.refl s)
  exact ⟨hkept.refused, hkept.biosValid, hkept.halted, hkept.fault⟩

/-- The bits of 10_state.md R33 as a number. -/
theorem statusBits_toNat : ∀ refused valid halted : Bool,
    (0#29 ++ BitVec.ofBool refused ++ BitVec.ofBool valid ++ BitVec.ofBool halted).toNat =
      halted.toNat + 2 * valid.toNat + 4 * refused.toNat := by decide

/-- Settles O47, by the presence of the image. -/
theorem statusWordIsMadeOfItsThreeBits : Obligations.StatusWordIsMadeOfItsThreeBits := by
  intro s
  rw [State.statusWord, statusBits_toNat]
  cases hb : s.bios <;> simp [State.biosValid, hb]

end Sys2Proof.Machine
end

section
/-! Which commands reach the Memory, `B`, pc and the registers (10_state.md R21 to R32). -/

namespace Sys2Proof.Machine

open Sys2Proof.Config

/-- Settles O18. -/
theorem memoryIsReachedOnlyByItsCommands : Obligations.MemoryIsReachedOnlyByItsCommands := by
  intro i s m hi
  obtain ⟨t, hx, he⟩ := exists_effect i s
  obtain ⟨hmem, hswap⟩ := he.exchange_mem hi m
  exact ⟨t, hx, hmem, exec_iff_effect.mpr hswap⟩

/-- A step changes `B` only where it takes a BIOS_LOAD with no image present (10_state.md R32). -/
theorem step_bios_cases {s t : State} (h : step s = .next t) :
    t.bios = s.bios ∨
      (s.bios = none ∧ ∃ c rest fw, s.requests = c :: rest ∧ decode c = some (.biosLoad fw)) := by
  rcases step_cases h with ⟨-, -, rfl⟩ | ⟨c, rest, -, -, -, rfl⟩ | ⟨c, rest, i, -, hr, hd, hx⟩
  · exact .inl rfl
  · exact .inl rfl
  · rcases (effect_of_exec hx).bios_cases with hb | ⟨hb, fw, rfl⟩
    · exact .inl hb
    · exact .inr ⟨hb, c, rest, fw, hr, hd⟩

/-- Settles O28. -/
theorem biosImageIsReadOnlyOnceLoaded : Obligations.BiosImageIsReadOnlyOnceLoaded := by
  refine ⟨fun s t b hs h => ?_, fun s t hs ht h => ?_, fun i s b hi => ?_⟩
  · rcases step_bios_cases h with hb | ⟨hb, -⟩
    · exact hb.trans hs
    · cases hb.symm.trans hs
  · rcases step_bios_cases h with hb | ⟨-, hload⟩
    · exact absurd (hb.trans hs) ht
    · exact hload
  · obtain ⟨t, hx, he⟩ := exists_effect i s
    obtain ⟨hbios, hswap⟩ := he.exchange_bios hi b
    exact ⟨t, hx, hbios, exec_iff_effect.mpr hswap⟩

/-- INC_PC keeps pc a multiple of 4, also where it wraps (10_state.md R24, R25). -/
theorem advancedPc_aligned {pc : Word} (h : pc.toNat % 4 = 0) : (advancedPc pc).toNat % 4 = 0 := by
  simp only [advancedPc, insnWidth, BitVec.toNat_add, BitVec.toNat_ofNat]
  omega

/-- A command keeps pc a multiple of 4 if the value of a PC_WRITE is one (10_state.md R24). -/
theorem Effect.keeps_pc_aligned {i : Instr} {s t : State} (h : Effect i s t)
    (hs : s.pc.toNat % 4 = 0) (hw : ∀ v, i = .pcWrite v → v.toNat % 4 = 0) : t.pc.toNat % 4 = 0 := by
  rcases h.pc_cases with hpc | ⟨-, hpc⟩ | ⟨-, hpc⟩ | hi
  · rwa [hpc]
  · rw [hpc]
    exact advancedPc_aligned hs
  · rw [hpc]
    rfl
  · exact hw _ hi

/-- Settles O33: every step that takes one of the commands keeps pc a multiple of 4. -/
theorem pcStaysAlignedUnlessPcWriteBreaksIt : Obligations.PcStaysAlignedUnlessPcWriteBreaksIt := by
  intro cs s t hs hw h
  refine h.keeps (P := fun u => u.pc.toNat % 4 = 0) (fun _ _ hu => hu) ?_ hs
  intro c hc u u' rest hr hstep hu
  rcases step_cases hstep with ⟨-, -, rfl⟩ | ⟨_, _, -, -, -, rfl⟩ | ⟨d, rest', i, -, hr', hd, hx⟩
  · exact hu
  · exact hu
  · obtain ⟨rfl, -⟩ := List.cons.inj (hr.symm.trans hr')
    exact (effect_of_exec hx).keeps_pc_aligned hu fun v hi => hw c hc v (hi ▸ hd)

/-- Settles O40. -/
theorem registersChangeOnlyByTheirOwnCommands :
    Obligations.RegistersChangeOnlyByTheirOwnCommands := by
  intro i s t hx hne
  have he := effect_of_exec hx
  refine ⟨fun hch => ?_, fun hch => ?_, fun j hch => ?_⟩
  · exact ⟨_, (he.hi_cases.resolve_left hch).resolve_left hne⟩
  · exact ⟨_, (he.lo_cases.resolve_left hch).resolve_left hne⟩
  · rcases ((he.readGpr_cases j).resolve_left hch).resolve_left hne with hclear | hwrite
    · exact .inl hclear
    · exact .inr ⟨_, hwrite⟩

/-- Settles O7. -/
theorem idleBlockKeepsItsState : Obligations.IdleBlockKeepsItsState := by
  intro s hrun hreq
  simp [step, accept, hrun, hreq]

/-- Settles O36: the read answers what `readGpr` sees right after the write. -/
theorem gprZeroIsAnOrdinaryRegister : Obligations.GprZeroIsAnOrdinaryRegister := by
  intro s v _
  refine ⟨_, exec_iff_effect.mpr .gprWrite, ?_⟩
  have hread : readGpr 0#5 (respondDone (writeGpr 0#5 v s)) = v :=
    readGpr_writeGpr_same s 0#5 v
  rw [exec_iff_effect.mpr .gprRead, hread]
  rfl

end Sys2Proof.Machine
end

section
/-! One command after the other (20_memory.md R58, R64): what a step does with a command does not depend on
the commands behind it, and so a run of two sequences is two runs. -/

namespace Sys2Proof.Machine

/-- The requester's list plays no part in a command, and the command leaves it as it is. -/
theorem Effect.exchange_requests {i : Instr} {s t : State} (h : Effect i s t) (rest : List Command) :
    Effect i (takeRequest rest s) (takeRequest rest t) := by
  cases h with
  | memWriteStores hk => exact .memWriteStores hk
  | memWriteHalts hk => exact .memWriteHalts hk
  | memReadWord hk => exact .memReadWord hk
  | memReadAbsent hk => exact .memReadAbsent hk
  | biosLoadRefused hb => exact .biosLoadRefused hb
  | biosLoadOpenError hb => exact .biosLoadOpenError hb
  | biosLoadImage hb hl => exact .biosLoadImage (s := takeRequest rest s) hb hl
  | biosLoadReadError hb hl => exact .biosLoadReadError hb hl
  | biosLoadShort hb hl => exact .biosLoadShort hb hl
  | biosReadRefused hb => exact .biosReadRefused hb
  | biosReadWord hb hk hg => exact .biosReadWord (s := takeRequest rest s) hb hk hg
  | biosReadPastCorrected hb hg hk => exact .biosReadPastCorrected hb hg hk
  | biosReadInnerLiteral hb hg hk => exact .biosReadInnerLiteral hb hg hk
  | biosReadHalts hb hg hk => exact .biosReadHalts hb hg hk
  | cpuReset | clearRegs | incPc | memClear | gprRead | gprWrite | hiRead | hiWrite | loRead | loWrite
  | pcRead | pcWrite => constructor

/-- The list that is set last is the one that stands. -/
@[simp] theorem takeRequest_takeRequest (cs ds : List Command) (s : State) :
    takeRequest cs (takeRequest ds s) = takeRequest cs s := rfl

/-- Everything a step that takes the command `c` can do: refuse a reserved command word, or run the decoded
command (60_exceptions.md R176). -/
theorem step_takeRequest_cons {c : Command} {cs : List Command} {s t : State}
    (h : step (takeRequest (c :: cs) s) = .next t) :
    s.halted = false ∧
      ((decode c = none ∧ t = refuse .reservedEncoding (takeRequest cs s)) ∨
        ∃ i, decode c = some i ∧ Effect i (takeRequest cs s) t) := by
  rcases step_cases h with ⟨-, hr, -⟩ | ⟨d, rest, hrun, hr, hd, rfl⟩ | ⟨d, rest, i, hrun, hr, hd, hx⟩
  · cases hr
  · cases hr
    exact ⟨hrun, .inl ⟨hd, rfl⟩⟩
  · cases hr
    exact ⟨hrun, .inr ⟨i, hd, effect_of_exec hx⟩⟩

/-- A running block refuses a reserved command word (30_encoding.md R87). -/
theorem step_takeRequest_of_none {c : Command} {cs : List Command} {s : State} (hrun : s.halted = false)
    (hd : decode c = none) :
    step (takeRequest (c :: cs) s) = .next (refuse .reservedEncoding (takeRequest cs s)) := by
  simp [step, accept, hrun, hd]

/-- A running block runs a decoded command. -/
theorem step_takeRequest_of_some {c : Command} {cs : List Command} {i : Instr} {s : State}
    (hrun : s.halted = false) (hd : decode c = some i) :
    step (takeRequest (c :: cs) s) = exec i (takeRequest cs s) := by
  simp [step, accept, hrun, hd]

/-- What a step does with the oldest request does not depend on the later ones (20_memory.md R64). -/
theorem step_exchange_rest {c : Command} {cs : List Command} {s t : State} (ds : List Command)
    (h : step (takeRequest (c :: cs) s) = .next t) :
    step (takeRequest (c :: ds) s) = .next (takeRequest ds t) := by
  obtain ⟨hrun, ⟨hd, rfl⟩ | ⟨i, hd, he⟩⟩ := step_takeRequest_cons h
  · exact step_takeRequest_of_none hrun hd
  · rw [step_takeRequest_of_some hrun hd]
    exact exec_iff_effect.mpr (he.exchange_requests ds)

/-- A run sees nothing of the list that was there before. -/
theorem issues_takeRequest {cs rest : List Command} {s t : State} :
    Issues cs (takeRequest rest s) t ↔ Issues cs s t := Iff.rfl

/-- A run of commands is the run of the first alone and a run of the others (20_memory.md R64). -/
theorem issues_cons_iff {c : Command} {cs : List Command} {s t : State} :
    Issues (c :: cs) s t ↔ ∃ u, step (takeRequest [c] s) = .next u ∧ Issues cs u t := by
  rw [issues_cons]
  constructor
  · rintro ⟨u, hu, ht⟩
    exact ⟨takeRequest [] u, step_exchange_rest [] hu, issues_takeRequest.mpr ht⟩
  · rintro ⟨u, hu, ht⟩
    exact ⟨takeRequest cs u, step_exchange_rest cs hu, issues_takeRequest.mpr ht⟩

/-- Settles O9, by induction on the first sequence. -/
theorem commandsApplyOneAtATimeInIssueOrder : Obligations.CommandsApplyOneAtATimeInIssueOrder := by
  intro cs ds s t
  induction cs generalizing s with
  | nil =>
    simp only [List.nil_append, issues_nil, exists_eq_left]
    exact issues_takeRequest.symm
  | cons c cs ih =>
    simp only [List.cons_append, issues_cons_iff, ih]
    constructor
    · rintro ⟨u, hu, v, hv, ht⟩
      exact ⟨v, ⟨u, hu, hv⟩, ht⟩
    · rintro ⟨v, ⟨u, hu, hv⟩, ht⟩
      exact ⟨u, hu, v, hv, ht⟩

end Sys2Proof.Machine
end

section
/-! The Memory along a run (20_memory.md R65): `wordAfter` is what one command leaves at an index, and
`latestWord` what a run leaves. -/

namespace Sys2Proof.Machine

/-- A command that does not halt the block leaves `wordAfter` at every index. -/
theorem Effect.read_mem {i : Instr} {s t : State} (h : Effect i s t) (ht : t.halted = false) (k : Nat) :
    t.mem.read k = wordAfter k (s.mem.read k) i := by
  cases h with
  | cpuReset | memClear => exact Memory.read_newEmpty k
  | @memWriteStores _ addr data _ =>
    by_cases hk : addr.toNat = k
    · subst hk
      simp [wordAfter]
    · simp [wordAfter, hk, Memory.read_write_other s.mem data (Ne.symm hk)]
  | memWriteHalts => cases ht
  | _ => rfl

/-- A reserved command word leaves every index as it is. -/
theorem latestWord_cons_of_none {c : Command} (hd : decode c = none) (k : Nat) (w : Word)
    (cs : List Command) : latestWord k w (c :: cs) = latestWord k w cs := by
  simp [latestWord, hd]

/-- The word that a decoded command leaves is the one that the commands after it find. -/
theorem latestWord_cons_of_some {c : Command} {i : Instr} (hd : decode c = some i) (k : Nat) (w : Word)
    (cs : List Command) : latestWord k w (c :: cs) = latestWord k (wordAfter k w i) cs := by
  simp [latestWord, hd]

/-- A step that takes `c` and does not halt the block leaves the word that the commands after `c` find. -/
theorem latestWord_step {c : Command} {cs : List Command} {s t : State}
    (h : step (takeRequest (c :: cs) s) = .next t) (ht : t.halted = false) (k : Nat) (ds : List Command) :
    latestWord k (t.mem.read k) ds = latestWord k (s.mem.read k) (c :: ds) := by
  obtain ⟨-, ⟨hd, rfl⟩ | ⟨i, hd, he⟩⟩ := step_takeRequest_cons h
  · rw [latestWord_cons_of_none hd]
    rfl
  · rw [latestWord_cons_of_some hd, he.read_mem ht, takeRequest_mem]

/-- A run that ends not halted leaves `latestWord` at every index. -/
theorem Issues.read_mem {cs : List Command} {s t : State} (h : Issues cs s t) (ht : t.halted = false)
    (k : Nat) : t.mem.read k = latestWord k (s.mem.read k) cs := by
  induction cs generalizing s with
  | nil =>
    rw [issues_nil.mp h]
    rfl
  | cons c cs ih =>
    obtain ⟨u, hu, htail⟩ := issues_cons.mp h
    obtain ⟨-, -, hhalted, -⟩ := statusBitsAreClearedByNothing cs u t htail
    have hurun : u.halted = false := Bool.eq_false_iff.mpr fun hh => by simp [hhalted hh] at ht
    exact (ih htail).trans (latestWord_step hu hurun k cs)

/-- Settles O17: the run leaves `latestWord` at the index, and MEM_READ answers it. -/
theorem memReadAnswersTheLatestWrite : Obligations.MemReadAnswersTheLatestWrite := by
  intro cs s t addr h ht hk
  rw [← h.read_mem ht, exec_iff_effect.mpr (.memReadWord hk)]
  rfl

end Sys2Proof.Machine
end

section
/-! Reads (20_memory.md R53, R59): neighbouring BIOS words, and the commands that change nothing but the
response buses. -/

namespace Sys2Proof.Machine

open Sys2Proof.Config

/-- Everything a read command can do: answer, leaving all but the response buses as it was; or be a
BIOS_READ that is refused or that halts the block. -/
theorem Effect.read_cases {i : Instr} {s t : State} (h : Effect i s t) (hi : i.isRead = true) :
    { t with response := s.response } = s ∨
    (∃ addr, i = .biosRead addr ∧ s.bios = none ∧ t = refuse .biosNotLoaded s) ∨
    (∃ addr, i = .biosRead addr ∧ s.biosGuard = .literal ∧ biosSize < addr.toNat + 4 ∧
      t = raiseFatal .biosBeyond addr s) := by
  cases h with
  | biosReadRefused hb => exact .inr (.inl ⟨_, rfl, hb, rfl⟩)
  | biosReadHalts _ hg hk => exact .inr (.inr ⟨_, rfl, hg, hk, rfl⟩)
  | memReadWord | memReadAbsent | biosReadWord | biosReadPastCorrected | biosReadInnerLiteral | gprRead
  | hiRead | loRead | pcRead => exact .inl rfl
  | _ => cases hi

/-- The response buses are outputs: no command reads them (30_encoding.md R81, R84). -/
theorem exec_ignores_response (i : Instr) (s : State) (r : Response) :
    exec i { s with response := r } = exec i s := by
  cases i <;> rfl

/-- A command that changed nothing but the response buses does the same again. -/
theorem exec_again {i : Instr} {s t : State} (h : exec i s = .next t)
    (hframe : { t with response := s.response } = s) : exec i t = .next t := by
  calc exec i t = exec i { t with response := s.response } := (exec_ignores_response i t _).symm
    _ = .next t := by rw [hframe, h]

/-- Settles O42: the premise on BIOS_READ excludes its refusal and its fatal fault. -/
theorem readsHaveNoSideEffect : Obligations.ReadsHaveNoSideEffect := by
  intro i s hi hbios
  obtain ⟨t, hx, he⟩ := exists_effect i s
  have hframe : { t with response := s.response } = s := by
    rcases he.read_cases hi with hframe | ⟨o, rfl, hb, -⟩ | ⟨o, rfl, hg, hk, -⟩
    · exact hframe
    · exact absurd hb (hbios o rfl).1
    · have hpast : 524288 < o.toNat + 4 := hk
      have hlast : o.toNat ≤ 524284 := (hbios o rfl).2 hg
      omega
  exact ⟨t, hx, hframe, exec_again hx hframe⟩

/-- The low 24 bits of a BIOS word are its lower three bytes (30_encoding.md R88). -/
theorem biosWord_low (b : BiosImage) (o : Nat) (h : o + 3 < biosSize) :
    (biosWord b o h).extractLsb' 0 24 = b[o + 2] ++ b[o + 1] ++ b[o] := by
  have hassoc : biosWord b o h = b[o + 3] ++ (b[o + 2] ++ b[o + 1] ++ b[o]) := by
    simp only [biosWord, BitVec.append_assoc, BitVec.cast_eq]
  rw [hassoc]
  exact BitVec.extractLsb'_append_eq_right

/-- Bits 31..8 of a BIOS word are its upper three bytes (30_encoding.md R88). -/
theorem biosWord_high (b : BiosImage) (o : Nat) (h : o + 3 < biosSize) :
    (biosWord b o h).extractLsb' 8 24 = b[o + 3] ++ b[o + 2] ++ b[o + 1] :=
  BitVec.extractLsb'_append_eq_left

/-- Settles O27: the three bytes from `o + 1` on are both. -/
theorem neighbouringBiosWordsOverlap : Obligations.NeighbouringBiosWordsOverlap := by
  intro b o h h'
  rw [biosWord_low, biosWord_high]

end Sys2Proof.Machine
end

section
/-! The decoder in one equation (30_encoding.md R82, R83, R87): the row of the opcode map at the place of
the OP field admits exactly the command words of that OP that are not reserved, so `decode` reads off the
fields what `encode` writes into them. -/

namespace Sys2Proof

/-- The row of the opcode map that belongs to `OP` (30_encoding.md R83). -/
def rowOf (op : BitVec 4) : TableRow := opcodeTable[op.toNat]'op.isLt

theorem rowOf_mem (op : BitVec 4) : rowOf op ∈ opcodeTable := List.getElem_mem _

/-- The opcode map has one row for each OP and no other. -/
theorem exists_rowOf_eq {r : TableRow} (h : r ∈ opcodeTable) : ∃ op, rowOf op = r := by
  obtain ⟨n, hn, rfl⟩ := List.mem_iff_getElem.mp h
  exact ⟨BitVec.ofNatLT n hn, rfl⟩

/-- Every row fixes its OP and RSV = 0, and IDX = 0 too but for the two GPR ports. -/
theorem rowOf_bits : ∀ op : BitVec 4, (rowOf op).matchBits = encodeCmd op 0#5 ∧
    (rowOf op).mask = if op = 0x8#4 ∨ op = 0x9#4 then 0xFFE0#16 else 0xFFFF#16 := by decide

/-- The fields of a command word put together from three fields. -/
theorem fields_append (op : BitVec 4) (rsv : BitVec 7) (idx : BitVec 5) :
    opField (op ++ rsv ++ idx) = op ∧ rsvField (op ++ rsv ++ idx) = rsv ∧
      idxField (op ++ rsv ++ idx) = idx := by
  refine ⟨?_, ?_, BitVec.extractLsb'_append_eq_right⟩
  · rw [opField, BitVec.extractLsb'_append_eq_of_le (by decide)]
    exact BitVec.extractLsb'_append_eq_left
  · rw [rsvField, BitVec.extractLsb'_append_eq_of_le (by decide)]
    exact BitVec.extractLsb'_append_eq_right

/-- A command word is an encoded one exactly when its fields are. -/
theorem eq_encodeCmd_iff {w : CmdWord} {op : BitVec 4} {idx : BitVec 5} :
    w = encodeCmd op idx ↔ opField w = op ∧ rsvField w = 0#7 ∧ idxField w = idx := by
  constructor
  · rintro rfl
    exact fields_encodeCmd op idx
  · rintro ⟨rfl, hrsv, rfl⟩
    exact (encodeCmd_fields hrsv).symm

/-- A row admits the command words of its OP that are not reserved (30_encoding.md R83, R87). -/
theorem rowOf_matches_iff {op : BitVec 4} {w : CmdWord} : (rowOf op).matches w = true ↔
    opField w = op ∧ rsvField w = 0#7 ∧ (idxField w = 0#5 ∨ op = 0x8#4 ∨ op = 0x9#4) := by
  obtain ⟨hbits, hmask⟩ := rowOf_bits op
  rw [TableRow.matches, beq_iff_eq, hbits, hmask]
  by_cases hop : op = 0x8#4 ∨ op = 0x9#4
  · obtain ⟨hop', hrsv', hidx'⟩ := fields_append (opField w) (rsvField w) 0#5
    simp [hop, and_idxMask, eq_encodeCmd_iff, hop', hrsv', hidx']
  · simp [hop, and_wholeMask, eq_encodeCmd_iff]

/-- Which command words are not reserved, by their fields (30_encoding.md R87). -/
theorem Command.wellFormed_iff {c : Command} : c.wellFormed = true ↔
    rsvField c.cmd = 0#7 ∧ (idxField c.cmd = 0#5 ∨ opField c.cmd = 0x8#4 ∨ opField c.cmd = 0x9#4) := by
  simp [Command.wellFormed, rsvIsZero, idxIsAllowed, or_assoc]

/-- Which command words are reserved, by their fields (30_encoding.md R87). -/
theorem Command.wellFormed_eq_false_iff {c : Command} : c.wellFormed = false ↔
    rsvField c.cmd ≠ 0#7 ∨
      (idxField c.cmd ≠ 0#5 ∧ opField c.cmd ≠ 0x8#4 ∧ opField c.cmd ≠ 0x9#4) := by
  rw [← Bool.not_eq_true, Command.wellFormed_iff]
  tauto

/-- The decoder reads a command word that is not reserved by the row of its OP. -/
theorem decode_of_wellFormed {c : Command} (h : c.wellFormed = true) :
    decode c = some ((rowOf (opField c.cmd)).build c) := by
  have hown : (rowOf (opField c.cmd)).matches c.cmd = true :=
    rowOf_matches_iff.mpr ⟨rfl, Command.wellFormed_iff.mp h⟩
  have hfound : (opcodeTable.find? (·.matches c.cmd)).isSome = true :=
    List.find?_isSome.mpr ⟨_, rowOf_mem _, hown⟩
  obtain ⟨r, hr⟩ := Option.isSome_iff_exists.mp hfound
  obtain ⟨op, rfl⟩ := exists_rowOf_eq (List.mem_of_find?_eq_some hr)
  have hm : (rowOf op).matches c.cmd = true := by simpa using List.find?_some hr
  rw [decode, hr, (rowOf_matches_iff.mp hm).1]
  rfl

/-- A command decodes when it is not reserved, and then to what the row of its OP builds. -/
theorem decode_eq_some_iff {c : Command} {i : Instr} : decode c = some i ↔
    c.wellFormed = true ∧ (rowOf (opField c.cmd)).build c = i := by
  constructor
  · intro h
    obtain ⟨r, hr, hm, -⟩ := decode_eq_some h
    obtain ⟨op, rfl⟩ := exists_rowOf_eq hr
    obtain ⟨rfl, hfields⟩ := rowOf_matches_iff.mp hm
    have hwf : c.wellFormed = true := Command.wellFormed_iff.mpr hfields
    exact ⟨hwf, Option.some.inj ((decode_of_wellFormed hwf).symm.trans h)⟩
  · rintro ⟨hwf, rfl⟩
    exact decode_of_wellFormed hwf

/-- The decoder has no row for exactly the reserved command words (30_encoding.md R87). -/
theorem decode_eq_none_iff {c : Command} : decode c = none ↔ c.wellFormed = false := by
  cases hwf : c.wellFormed with
  | true => simp [decode_of_wellFormed hwf]
  | false =>
    refine iff_of_true (Option.eq_none_iff_forall_ne_some.mpr fun i hi => ?_) rfl
    simp [(decode_eq_some_iff.mp hi).1] at hwf

end Sys2Proof
end

section
/-! Encoding and decoding (30_encoding.md R81 to R87): the two directions of the round trip, the buses that
a command does not read, and the reserved command words. -/

namespace Sys2Proof

/-- `d` has the command word of `c`, and the value of `c` on every bus that `i` reads (30_encoding.md
R81). -/
structure SameInputs (i : Instr) (c d : Command) : Prop where
  cmd  : d.cmd = c.cmd
  addr : i.usesAddr = true → d.addr = c.addr
  data : i.usesData = true → d.data = c.data
  fw   : i.usesFw = true → d.fw = c.fw

namespace SameInputs

variable {i : Instr} {c d e : Command}

theorem refl (i : Instr) (c : Command) : SameInputs i c c := ⟨rfl, fun _ => rfl, fun _ => rfl, fun _ => rfl⟩

theorem symm (h : SameInputs i c d) : SameInputs i d c :=
  ⟨h.cmd.symm, fun hi => (h.addr hi).symm, fun hi => (h.data hi).symm, fun hi => (h.fw hi).symm⟩

theorem trans (h : SameInputs i c d) (h' : SameInputs i d e) : SameInputs i c e :=
  ⟨h'.cmd.trans h.cmd, fun hi => (h'.addr hi).trans (h.addr hi),
    fun hi => (h'.data hi).trans (h.data hi), fun hi => (h'.fw hi).trans (h.fw hi)⟩

end SameInputs

/-- An encoded command word decodes by the row of its OP. -/
theorem decode_of_cmd {c : Command} (op : BitVec 4) (idx : BitVec 5) (h : c.cmd = encodeCmd op idx)
    (hidx : idx = 0#5 ∨ op = 0x8#4 ∨ op = 0x9#4) : decode c = some ((rowOf op).build c) := by
  obtain ⟨rfl, hrsv, rfl⟩ := eq_encodeCmd_iff.mp h
  exact decode_of_wellFormed (Command.wellFormed_iff.mpr ⟨hrsv, hidx⟩)

/-- A command with the inputs that the encoder gives `i` decodes to `i`. -/
theorem decode_of_sameInputs_encode {i : Instr} {c : Command} (h : SameInputs i (encode i) c) :
    decode c = some i := by
  have hrow (op : BitVec 4) (hcmd : c.cmd = encodeCmd op 0#5) : decode c = some ((rowOf op).build c) :=
    decode_of_cmd op 0#5 hcmd (.inl rfl)
  cases i with
  | cpuReset => exact hrow 0x0#4 h.cmd
  | clearRegs => exact hrow 0x1#4 h.cmd
  | incPc => exact hrow 0x2#4 h.cmd
  | memWrite addr data =>
    obtain rfl : c.addr = addr := h.addr rfl
    obtain rfl : c.data = data := h.data rfl
    exact hrow 0x3#4 h.cmd
  | memRead addr =>
    obtain rfl : c.addr = addr := h.addr rfl
    exact hrow 0x4#4 h.cmd
  | memClear => exact hrow 0x5#4 h.cmd
  | biosLoad fw =>
    obtain rfl : c.fw = fw := h.fw rfl
    exact hrow 0x6#4 h.cmd
  | biosRead addr =>
    obtain rfl : c.addr = addr := h.addr rfl
    exact hrow 0x7#4 h.cmd
  | gprRead idx =>
    obtain ⟨-, -, rfl⟩ := eq_encodeCmd_iff.mp h.cmd
    exact decode_of_cmd 0x8#4 _ h.cmd (.inr (.inl rfl))
  | gprWrite idx data =>
    obtain ⟨-, -, rfl⟩ := eq_encodeCmd_iff.mp h.cmd
    obtain rfl : c.data = data := h.data rfl
    exact decode_of_cmd 0x9#4 _ h.cmd (.inr (.inr rfl))
  | hiRead => exact hrow 0xA#4 h.cmd
  | hiWrite data =>
    obtain rfl : c.data = data := h.data rfl
    exact hrow 0xB#4 h.cmd
  | loRead => exact hrow 0xC#4 h.cmd
  | loWrite data =>
    obtain rfl : c.data = data := h.data rfl
    exact hrow 0xD#4 h.cmd
  | pcRead => exact hrow 0xE#4 h.cmd
  | pcWrite data =>
    obtain rfl : c.data = data := h.data rfl
    exact hrow 0xF#4 h.cmd

/-- Settles O10: the encoded command has the encoder's inputs. -/
theorem decodeInvertsEncode : Obligations.DecodeInvertsEncode := fun i =>
  decode_of_sameInputs_encode (.refl i (encode i))

/-- The command word of what a row builds: the row's OP, and the command's IDX if the row has one. -/
theorem encode_build_cmd : ∀ (op : BitVec 4) (c : Command), (encode ((rowOf op).build c)).cmd =
    encodeCmd op (if op = 0x8#4 ∨ op = 0x9#4 then idxField c.cmd else 0#5) := by
  rintro ⟨op⟩ c
  fin_cases op <;> rfl

/-- What a row builds takes each operand from its own bus (30_encoding.md R86). -/
theorem encode_build_buses {r : TableRow} (hr : r ∈ opcodeTable) (c : Command) :
    ((r.build c).usesAddr = true → (encode (r.build c)).addr = c.addr) ∧
    ((r.build c).usesData = true → (encode (r.build c)).data = c.data) ∧
    ((r.build c).usesFw = true → (encode (r.build c)).fw = c.fw) := by
  revert r
  simp [opcodeTable, cpuRows, memoryRows, biosRows, portRows, Instr.usesAddr, Instr.usesData,
    Instr.usesFw, encode, bareCommand]

/-- The encoder gives a decoded command back its inputs. -/
theorem sameInputs_encode_of_decode {c : Command} {i : Instr} (h : decode c = some i) :
    SameInputs i c (encode i) := by
  obtain ⟨hwf, rfl⟩ := decode_eq_some_iff.mp h
  obtain ⟨hrsv, hidx⟩ := Command.wellFormed_iff.mp hwf
  obtain ⟨haddr, hdata, hfw⟩ := encode_build_buses (rowOf_mem (opField c.cmd)) c
  refine ⟨?_, haddr, hdata, hfw⟩
  have hkept : (if opField c.cmd = 0x8#4 ∨ opField c.cmd = 0x9#4 then idxField c.cmd else 0#5) =
      idxField c.cmd := by
    split
    · rfl
    · exact (hidx.resolve_right ‹_›).symm
  rw [encode_build_cmd, hkept, encodeCmd_fields hrsv]

/-- Settles O11. -/
theorem encodeInvertsDecode : Obligations.EncodeInvertsDecode := by
  intro c i h
  obtain ⟨hcmd, haddr, hdata, hfw⟩ := sameInputs_encode_of_decode h
  exact ⟨hcmd, haddr, hdata, hfw⟩

/-- Settles O12: `c` and so `d` have the inputs that the encoder gives `i`. -/
theorem ignoredBusesDoNotMatter : Obligations.IgnoredBusesDoNotMatter := by
  intro c d i h hcmd haddr hdata hfw
  have hd : SameInputs i c d := ⟨hcmd, haddr, hdata, hfw⟩
  exact decode_of_sameInputs_encode ((sameInputs_encode_of_decode h).symm.trans hd)

/-- Settles O13. -/
theorem opcodeMapWordsDecode : Obligations.OpcodeMapWordsDecode := by
  unfold Obligations.OpcodeMapWordsDecode
  decide

end Sys2Proof

namespace Sys2Proof.Machine

/-- A state is itself with its own list of requests. -/
theorem takeRequest_requests_self {s : State} {cs : List Command} (h : s.requests = cs) :
    takeRequest cs s = s := by
  rw [← h]
  rfl

/-- Settles O6: the reserved command words are those that do not decode. -/
theorem reservedCommandWordIsRefused : Obligations.ReservedCommandWordIsRefused := by
  intro s c rest hrun hreq
  rw [← takeRequest_requests_self hreq]
  refine ⟨fun hres => ?_, fun hres => ?_⟩
  · have hd : decode c = none := decode_eq_none_iff.mpr (Command.wellFormed_eq_false_iff.mpr hres)
    exact step_takeRequest_of_none hrun hd
  · have hwf : c.wellFormed = true :=
      eq_true_of_ne_false (mt Command.wellFormed_eq_false_iff.mp hres)
    exact ⟨_, decode_of_wellFormed hwf, step_takeRequest_of_some hrun (decode_of_wellFormed hwf)⟩

end Sys2Proof.Machine
end

section
/-! The BIOS word and its four bytes (30_encoding.md R88). -/

namespace Sys2Proof.Machine

/-- The bytes of a word put together from four bytes. -/
theorem bytes_append (b₃ b₂ b₁ b₀ : Byte) :
    (b₃ ++ b₂ ++ b₁ ++ b₀).extractLsb' 0 8 = b₀ ∧ (b₃ ++ b₂ ++ b₁ ++ b₀).extractLsb' 8 8 = b₁ ∧
    (b₃ ++ b₂ ++ b₁ ++ b₀).extractLsb' 16 8 = b₂ ∧ (b₃ ++ b₂ ++ b₁ ++ b₀).extractLsb' 24 8 = b₃ := by
  refine ⟨BitVec.extractLsb'_append_eq_right, ?_, ?_, ?_⟩
  · rw [BitVec.extractLsb'_append_eq_of_le (by decide)]
    exact BitVec.extractLsb'_append_eq_right
  · rw [BitVec.extractLsb'_append_eq_of_le (by decide),
      BitVec.extractLsb'_append_eq_of_le (by decide)]
    exact BitVec.extractLsb'_append_eq_right
  · rw [BitVec.extractLsb'_append_eq_of_le (by decide),
      BitVec.extractLsb'_append_eq_of_le (by decide)]
    exact BitVec.extractLsb'_append_eq_left

/-- A word put together from four bytes is their sum, each shifted to its place. -/
theorem append_bytes_eq_or (b₃ b₂ b₁ b₀ : Byte) :
    (b₃ ++ b₂ ++ b₁ ++ b₀ : Word) = b₀.setWidth 32 ||| b₁.setWidth 32 <<< 8 |||
      b₂.setWidth 32 <<< 16 ||| b₃.setWidth 32 <<< 24 := by
  have hreverse (x y z w : Word) : x ||| y ||| z ||| w = w ||| z ||| y ||| x := by ac_rfl
  calc (b₃ ++ b₂ ++ b₁ ++ b₀ : Word) = (b₃ ++ b₂ ++ b₁ ++ b₀).setWidth 32 := (BitVec.setWidth_eq _).symm
    _ = b₃.setWidth 32 <<< 24 ||| b₂.setWidth 32 <<< 16 ||| b₁.setWidth 32 <<< 8 |||
          b₀.setWidth 32 := BitVec.setWidth_append_append_append_eq_shiftLeft_setWidth_or
    _ = _ := hreverse _ _ _ _

/-- Settles O26. -/
theorem biosWordIsLittleEndian : Obligations.BiosWordIsLittleEndian := fun b o h =>
  ⟨append_bytes_eq_or b[o + 3] b[o + 2] b[o + 1] b[o], bytes_append b[o + 3] b[o + 2] b[o + 1] b[o]⟩

end Sys2Proof.Machine
end

section
/-! The response of a step that took a command (30_encoding.md R84, R85): one lemma per status code says
which commands produce it and when, and one says which responses carry a word. -/

namespace Sys2Proof.Machine

open Sys2Proof.Config

/-- Everything a step that took the command `c` can have done: refused a reserved command word, or run the
decoded command (60_exceptions.md R176). -/
theorem step_cons_cases {s t : State} {c : Command} {rest : List Command} (hreq : s.requests = c :: rest)
    (h : step s = .next t) : s.halted = false ∧
      ((decode c = none ∧ t = refuse .reservedEncoding (takeRequest rest s)) ∨
        ∃ i, decode c = some i ∧ Effect i (takeRequest rest s) t) := by
  rw [← takeRequest_requests_self hreq] at h
  exact step_takeRequest_cons h

/-- The codes of 30_encoding.md R85 are different numbers, so RSP_STATUS names its status. -/
theorem RspStatus.code_inj {r r' : RspStatus} : r.code = r'.code ↔ r = r' := by
  cases r <;> cases r' <;> decide

/-- Code 7 is reserved (30_encoding.md R85). -/
theorem RspStatus.code_ne_seven (r : RspStatus) : r.code ≠ 7#3 := by
  cases r <;> decide

/-- Codes 2 and 6 are the fatal ones (30_encoding.md R85). -/
theorem RspStatus.isFatal_iff {r : RspStatus} :
    r.isFatal = true ↔ r = .fatalWriteOor ∨ r = .fatalBiosBeyond := by
  cases r <;> decide

/-- RSP_DATA is the word that the response carries (30_encoding.md R84). -/
theorem State.rspData_of_word {s : State} {v : Word} (h : s.response.word = some v) : s.rspData = v := by
  simp [State.rspData, Response.data, h]

/-- RSP_DATA is 0 where the response carries no word (30_encoding.md R84). -/
theorem State.rspData_of_no_word {s : State} (h : s.response.word = none) : s.rspData = 0#32 := by
  simp [State.rspData, Response.data, h]

namespace Effect

variable {i : Instr} {s t : State}

/-- A response carries a word exactly when a read completed (30_encoding.md R84). -/
theorem word_isSome_iff (h : Effect i s t) :
    t.response.word.isSome = true ↔ t.response.status = .ok ∧ i.isRead = true := by
  cases h with
  | memReadWord | biosReadWord | gprRead | hiRead | loRead | pcRead => exact iff_of_true rfl ⟨rfl, rfl⟩
  | memReadAbsent | biosReadRefused | biosReadPastCorrected | biosReadInnerLiteral | biosReadHalts =>
    exact iff_of_false nofun fun h => nomatch h.1
  | _ => exact iff_of_false nofun fun h => nomatch h.2

/-- Code 1 is a Memory read out of range, or a read of an image that fails the built guard. -/
theorem notPresent_iff (h : Effect i s t) : t.response.status = .notPresent ↔
    (∃ a, i = .memRead a ∧ memWords ≤ a.toNat) ∨
      ∃ o, i = .biosRead o ∧ s.bios ≠ none ∧
        ((s.biosGuard = .corrected ∧ biosSize < o.toNat + 4) ∨
          (s.biosGuard = .literal ∧ o.toNat + 4 < biosSize)) := by
  constructor
  · intro hst
    cases h with
    | memReadAbsent hk => exact .inl ⟨_, rfl, hk⟩
    | biosReadPastCorrected hb hg hk => exact .inr ⟨_, rfl, by simp [hb], .inl ⟨hg, hk⟩⟩
    | biosReadInnerLiteral hb hg hk => exact .inr ⟨_, rfl, by simp [hb], .inr ⟨hg, hk⟩⟩
    | _ => cases hst
  · rintro (⟨a, rfl, hk⟩ | ⟨o, rfl, hb, ⟨hg, hk⟩ | ⟨hg, hk⟩⟩)
    · exact h.unique (.memReadAbsent hk) ▸ rfl
    · obtain ⟨b, hb⟩ := Option.ne_none_iff_exists'.mp hb
      exact h.unique (.biosReadPastCorrected hb hg hk) ▸ rfl
    · obtain ⟨b, hb⟩ := Option.ne_none_iff_exists'.mp hb
      exact h.unique (.biosReadInnerLiteral hb hg hk) ▸ rfl

/-- Code 2 is a Memory write out of range. -/
theorem fatalWriteOor_iff (h : Effect i s t) : t.response.status = .fatalWriteOor ↔
    ∃ a v, i = .memWrite a v ∧ memWords ≤ a.toNat := by
  constructor
  · intro hst
    cases h with
    | memWriteHalts hk => exact ⟨_, _, rfl, hk⟩
    | _ => cases hst
  · rintro ⟨a, v, rfl, hk⟩
    exact h.unique (.memWriteHalts hk) ▸ rfl

/-- Code 3 is a load from a source that cannot be opened or read. -/
theorem biosIoError_iff (h : Effect i s t) : t.response.status = .biosIoError ↔
    s.bios = none ∧ ∃ fw, i = .biosLoad fw ∧
      (fw = .openError ∨ ∃ bytes, fw = .stream bytes .err ∧ bytes.length < biosSize) := by
  constructor
  · intro hst
    cases h with
    | biosLoadOpenError hb => exact ⟨hb, _, rfl, .inl rfl⟩
    | biosLoadReadError hb hl => exact ⟨hb, _, rfl, .inr ⟨_, rfl, hl⟩⟩
    | _ => cases hst
  · rintro ⟨hb, fw, rfl, rfl | ⟨bytes, rfl, hl⟩⟩
    · exact h.unique (.biosLoadOpenError hb) ▸ rfl
    · exact h.unique (.biosLoadReadError hb hl) ▸ rfl

/-- Code 4 is a load from a source that ends early. -/
theorem biosSizeMismatch_iff (h : Effect i s t) : t.response.status = .biosSizeMismatch ↔
    s.bios = none ∧ ∃ bytes, i = .biosLoad (.stream bytes .eof) ∧ bytes.length < biosSize := by
  constructor
  · intro hst
    cases h with
    | biosLoadShort hb hl => exact ⟨hb, _, rfl, hl⟩
    | _ => cases hst
  · rintro ⟨hb, bytes, rfl, hl⟩
    exact h.unique (.biosLoadShort hb hl) ▸ rfl

/-- Code 5 from a command's own rule is a BIOS command on the wrong presence of the image. -/
theorem refused_iff (h : Effect i s t) : t.response.status = .refused ↔
    (∃ o, i = .biosRead o ∧ s.bios = none) ∨ ∃ fw, i = .biosLoad fw ∧ s.bios ≠ none := by
  constructor
  · intro hst
    cases h with
    | biosReadRefused hb => exact .inl ⟨_, rfl, hb⟩
    | biosLoadRefused hb => exact .inr ⟨_, rfl, by simp [hb]⟩
    | _ => cases hst
  · rintro (⟨o, rfl, hb⟩ | ⟨fw, rfl, hb⟩)
    · exact h.unique (.biosReadRefused hb) ▸ rfl
    · obtain ⟨b, hb⟩ := Option.ne_none_iff_exists'.mp hb
      exact h.unique (.biosLoadRefused hb) ▸ rfl

/-- Code 6 is a read past the last word of the image under the LITERAL guard. -/
theorem fatalBiosBeyond_iff (h : Effect i s t) : t.response.status = .fatalBiosBeyond ↔
    s.biosGuard = .literal ∧ s.bios ≠ none ∧ ∃ o, i = .biosRead o ∧ biosSize < o.toNat + 4 := by
  constructor
  · intro hst
    cases h with
    | biosReadHalts hb hg hk => exact ⟨hg, by simp [hb], _, rfl, hk⟩
    | _ => cases hst
  · rintro ⟨hg, hb, o, rfl, hk⟩
    obtain ⟨b, hb⟩ := Option.ne_none_iff_exists'.mp hb
    exact h.unique (.biosReadHalts hb hg hk) ▸ rfl

/-- A command halts a running block exactly when its code is fatal (30_encoding.md R85). -/
theorem isFatal_iff_halted (h : Effect i s t) (hrun : s.halted = false) :
    t.response.status.isFatal = true ↔ t.halted = true := by
  rcases h.fault_cases with ⟨hsame, hf⟩ | ⟨_, _, -, -, rfl⟩ | ⟨_, -, -, -, -, rfl⟩
  · simp [hf, hsame.halted, hrun]
  · exact iff_of_true rfl rfl
  · exact iff_of_true rfl rfl

end Effect

/-- Settles O48: a reserved command word answers code 5, and a decoded command what its effect says of
each status. -/
theorem statusCodesAreProducedByTheirOwnCommands :
    Obligations.StatusCodesAreProducedByTheirOwnCommands := by
  intro s t c rest hreq h
  obtain ⟨hrun, ⟨hd, rfl⟩ | ⟨i, hd, he⟩⟩ := step_cons_cases hreq h
  · simp [hd, hrun, State.rspStatus, RspStatus.code]
  · have hcode (r : RspStatus) : t.rspStatus = r.code ↔ t.response.status = r := RspStatus.code_inj
    have hfatal : t.rspStatus = 2#3 ∨ t.rspStatus = 6#3 ↔ t.halted = true :=
      ((or_congr (hcode .fatalWriteOor) (hcode .fatalBiosBeyond)).trans RspStatus.isFatal_iff.symm).trans
        (he.isFatal_iff_halted hrun)
    simp only [hd, Option.some.injEq, reduceCtorEq, false_or]
    exact ⟨hcode .ok, (hcode .notPresent).trans he.notPresent_iff,
      (hcode .fatalWriteOor).trans he.fatalWriteOor_iff, (hcode .biosIoError).trans he.biosIoError_iff,
      (hcode .biosSizeMismatch).trans he.biosSizeMismatch_iff, (hcode .refused).trans he.refused_iff,
      (hcode .fatalBiosBeyond).trans he.fatalBiosBeyond_iff, t.response.status.code_ne_seven, hfatal⟩

/-- Settles O49. -/
theorem responseCarriesAWordOnlyForACompletedRead :
    Obligations.ResponseCarriesAWordOnlyForACompletedRead := by
  intro s t c rest hreq h completedRead
  have hword : t.response.word.isSome = true ↔ completedRead := by
    obtain ⟨-, ⟨hd, rfl⟩ | ⟨i, hd, he⟩⟩ := step_cons_cases hreq h
    · simp [completedRead]
    · simp [completedRead, hd, he.word_isSome_iff]
  refine ⟨fun hread => ?_, fun hread => ?_⟩
  · obtain ⟨v, hv⟩ := Option.isSome_iff_exists.mp (hword.mpr hread)
    rw [hv, State.rspData_of_word hv]
  · have hnone : t.response.word = none := by simpa using mt hword.mp hread
    exact ⟨hnone, State.rspData_of_no_word hnone⟩

end Sys2Proof.Machine
end

section
/-! The Memory operations (40_memory_ops.md): each path of MEM_WRITE, MEM_READ and MEM_CLEAR is one
constructor of `Effect`. -/

namespace Sys2Proof.Machine

/-- Settles O14: in range the Memory's read-after-write laws say what is stored, and out of range
`raiseFatal` is the record. -/
theorem memWriteStoresInRangeAndHaltsOutOfRange :
    Obligations.MemWriteStoresInRangeAndHaltsOutOfRange := by
  refine ⟨fun addr data fw => ?_, fun s addr data _ => ⟨fun hk => ?_, fun hk => ?_⟩⟩
  · exact decode_of_sameInputs_encode ⟨rfl, fun _ => rfl, fun _ => rfl, nofun⟩
  · exact ⟨_, exec_iff_effect.mpr (.memWriteStores hk), Memory.read_write_same s.mem _ data,
      fun _ hne => Memory.read_write_other s.mem data hne, rfl, rfl⟩
  · exact exec_iff_effect.mpr (.memWriteHalts hk)

/-- Settles O15. -/
theorem memReadAnswersTheWordOrNotPresent : Obligations.MemReadAnswersTheWordOrNotPresent := by
  refine ⟨fun addr data fw => ?_, fun s addr _ => ⟨fun hk => ?_, fun hk => ?_⟩⟩
  · exact decode_of_sameInputs_encode ⟨rfl, fun _ => rfl, nofun, nofun⟩
  · exact exec_iff_effect.mpr (.memReadWord hk)
  · exact ⟨_, exec_iff_effect.mpr (.memReadAbsent hk), rfl, State.rspData_of_no_word rfl, rfl⟩

/-- Settles O16. -/
theorem memClearZeroesEveryWord : Obligations.MemClearZeroesEveryWord := by
  refine ⟨fun addr data fw => ?_, fun s _ => ?_⟩
  · exact decode_of_sameInputs_encode ⟨rfl, nofun, nofun, nofun⟩
  · exact ⟨_, exec_iff_effect.mpr .memClear, Memory.read_newEmpty, rfl, rfl⟩

end Sys2Proof.Machine
end

section
/-! The BIOS operations (41_bios_ops.md): each path of BIOS_LOAD and BIOS_READ is one constructor of
`Effect`. -/

namespace Sys2Proof.Machine

open Sys2Proof.Config

/-! ### BIOS_LOAD (41_bios_ops.md R120 to R123) -/

/-- Settles O19: on the full stream the image is `imageOfStream`, whose bytes are the stream's. -/
theorem biosLoadBuildsTheImageOrFails : Obligations.BiosLoadBuildsTheImageOrFails := by
  refine ⟨fun addr data fw => ?_, fun s _ => ⟨fun hb fw => ?_, fun hb => ⟨?_, fun bytes =>
    ⟨fun hlen ending => ?_, fun hlen => ⟨?_, ?_⟩⟩⟩⟩⟩
  · exact decode_of_sameInputs_encode ⟨rfl, nofun, nofun, fun _ => rfl⟩
  · obtain ⟨b, hb⟩ := Option.ne_none_iff_exists'.mp hb
    exact exec_iff_effect.mpr (.biosLoadRefused hb)
  · exact exec_iff_effect.mpr (.biosLoadOpenError hb)
  · refine ⟨imageOfStream bytes hlen, _, exec_iff_effect.mpr (.biosLoadImage hb hlen), rfl, rfl,
      fun o ho => ?_⟩
    rw [imageOfStream_getElem bytes hlen o ho, List.getElem?_eq_getElem]
  · exact exec_iff_effect.mpr (.biosLoadReadError hb hlen)
  · exact exec_iff_effect.mpr (.biosLoadShort hb hlen)

/-- What BIOS_LOAD does with a long enough stream depends on its first `biosSize` bytes alone, and not on
how it ends (41_bios_ops.md R122). -/
theorem exec_biosLoad_congr {bytes bytes' : List Byte} (h : biosSize ≤ bytes.length)
    (h' : biosSize ≤ bytes'.length) (htake : bytes.take biosSize = bytes'.take biosSize)
    (e e' : StreamEnd) (s : State) :
    exec (.biosLoad (.stream bytes e)) s = exec (.biosLoad (.stream bytes' e')) s := by
  cases hb : s.bios with
  | some b =>
    rw [exec_iff_effect.mpr (.biosLoadRefused hb), exec_iff_effect.mpr (.biosLoadRefused hb)]
  | none =>
    rw [exec_iff_effect.mpr (.biosLoadImage hb h), exec_iff_effect.mpr (.biosLoadImage hb h'),
      imageOfStream_congr h h' htake]

/-- Settles O20: the longer stream has the same first `biosSize` bytes. -/
theorem biosLoadIgnoresBytesPastTheImage : Obligations.BiosLoadIgnoresBytesPastTheImage := by
  intro s bytes extra e e' hlen
  have hle : biosSize ≤ bytes.length := hlen.ge
  have hle' : biosSize ≤ (bytes ++ extra).length := by
    rw [List.length_append]
    omega
  exact ⟨exec_biosLoad_congr hle' hle (List.take_append_of_le_length hle) e e' s,
    fun hb => ⟨_, exec_iff_effect.mpr (.biosLoadImage hb hle'), rfl⟩⟩

/-- A BIOS_LOAD of an absent image fails exactly when it leaves the image absent (41_bios_ops.md R123). -/
theorem Effect.biosLoad_failed_iff {fw : FwAnswer} {s t : State} (h : Effect (.biosLoad fw) s t)
    (hs : s.bios = none) :
    (t.response.status = .biosIoError ∨ t.response.status = .biosSizeMismatch) ↔ t.bios = none := by
  cases h with
  | biosLoadRefused hb => cases hs.symm.trans hb
  | biosLoadImage => exact iff_of_false nofun nofun
  | biosLoadOpenError | biosLoadReadError => exact iff_of_true (.inl rfl) hs
  | biosLoadShort => exact iff_of_true (.inr rfl) hs

/-- Settles O21. -/
theorem biosLoadFailuresAreDistinctAndBuildNothing :
    Obligations.BiosLoadFailuresAreDistinctAndBuildNothing := by
  refine ⟨rfl, rfl, fun s fw hs => ?_⟩
  obtain ⟨t, hx, he⟩ := exists_effect (.biosLoad fw) s
  refine ⟨t, hx, fun hfw => ?_, fun hst => ?_, he.biosLoad_failed_iff hs⟩
  · exact he.biosIoError_iff.mpr ⟨hs, fw, rfl, .inl hfw⟩
  · obtain ⟨-, bytes, hi, -⟩ := he.biosSizeMismatch_iff.mp hst
    cases hi
    exact nofun

/-! ### BIOS_READ (41_bios_ops.md R124 to R127) -/

/-- The command word of BIOS_READ, whatever is on the buses that it ignores (30_encoding.md R83). -/
theorem decode_biosRead_word (addr data : Word) (fw : FwAnswer) :
    decode ⟨0x7000#16, addr, data, fw⟩ = some (.biosRead addr) :=
  decode_of_sameInputs_encode ⟨rfl, fun _ => rfl, nofun, nofun⟩

/-- Settles O22. -/
theorem biosReadUnderTheCorrectedGuard : Obligations.BiosReadUnderTheCorrectedGuard := by
  refine ⟨decode_biosRead_word, fun s o _ hg => ⟨fun hb => ?_, fun b hb =>
    ⟨fun hk => ?_, fun hk => ?_⟩⟩⟩
  · exact exec_iff_effect.mpr (.biosReadRefused hb)
  · exact exec_iff_effect.mpr (.biosReadWord hb hk (by simp [hg]))
  · exact exec_iff_effect.mpr (.biosReadPastCorrected hb hg hk)

/-- Settles O23. -/
theorem biosReadUnderTheLiteralGuard : Obligations.BiosReadUnderTheLiteralGuard := by
  refine ⟨decode_biosRead_word, fun s o _ hg => ⟨fun hb => ?_, fun b hb =>
    ⟨fun hk => ?_, fun hk hlast => ?_, fun hk => ?_⟩⟩⟩
  · exact exec_iff_effect.mpr (.biosReadRefused hb)
  · exact exec_iff_effect.mpr (.biosReadInnerLiteral hb hg hk)
  · exact exec_iff_effect.mpr (.biosReadWord hb hk fun _ => hlast)
  · exact exec_iff_effect.mpr (.biosReadHalts hb hg hk)

/-- A BIOS_READ of an image halts a running block exactly past the last word under the LITERAL guard
(41_bios_ops.md R125, R126). -/
theorem Effect.biosRead_halted_iff {o : Word} {s t : State} (h : Effect (.biosRead o) s t)
    (hs : s.bios ≠ none) (hrun : s.halted = false) :
    t.halted = true ↔ s.biosGuard = .literal ∧ biosSize < o.toNat + 4 := by
  rw [← h.isFatal_iff_halted hrun, RspStatus.isFatal_iff, h.fatalWriteOor_iff, h.fatalBiosBeyond_iff]
  simp [hs]

/-- Settles O24: an image is present, so the read answers or halts the block. -/
theorem biosReadChangesNoStateButOnTheFatalPath :
    Obligations.BiosReadChangesNoStateButOnTheFatalPath := by
  intro s o hs hrun
  obtain ⟨t, hx, he⟩ := exists_effect (.biosRead o) s
  refine ⟨t, hx, he.biosRead_halted_iff hs hrun, fun ht => ?_⟩
  rcases he.read_cases rfl with hframe | ⟨_, -, hb, -⟩ | ⟨_, -, -, -, rfl⟩
  · exact ⟨hframe, exec_again hx hframe⟩
  · exact absurd hb hs
  · cases ht

/-- The offset of the last word of the image. -/
theorem eq_lastWord_iff {o : Word} : o = 524284#32 ↔ o.toNat + 4 = 524288 := by
  rw [← BitVec.toNat_inj, BitVec.toNat_ofNat]
  omega

/-- Settles O25: before the last word of an image the CORRECTED guard alone answers a word, at it both
answer that word, and past it the LITERAL guard alone halts the block. -/
theorem biosGuardsAgreeOnlyAtTheLastWord : Obligations.BiosGuardsAgreeOnlyAtTheLastWord := by
  refine ⟨rfl, fun s o => ?_⟩
  rw [eq_lastWord_iff]
  obtain hb | ⟨b, hb⟩ := Option.eq_none_or_eq_some s.bios
  · exact ⟨_, _, exec_iff_effect.mpr (.biosReadRefused hb), exec_iff_effect.mpr (.biosReadRefused hb),
      iff_of_true rfl (.inl hb)⟩
  have hword (g : BiosGuard) (h : o.toNat + 3 < biosSize) (hg : g = .literal → o.toNat + 4 = biosSize) :
      exec (.biosRead o) { s with biosGuard := g } =
        .next (respondWord (biosWord b o.toNat h) { s with biosGuard := g }) :=
    exec_iff_effect.mpr (.biosReadWord (s := { s with biosGuard := g }) hb h hg)
  rcases Nat.lt_trichotomy (o.toNat + 4) biosSize with hk | hk | hk
  · exact ⟨_, _, hword .corrected (by omega) nofun, exec_iff_effect.mpr (.biosReadInnerLiteral hb rfl hk),
      iff_of_false nofun (by simp [hb, hk.ne])⟩
  · exact ⟨_, _, hword .corrected (by omega) nofun, hword .literal (by omega) fun _ => hk,
      iff_of_true rfl (.inr hk)⟩
  · exact ⟨_, _, exec_iff_effect.mpr (.biosReadPastCorrected hb rfl hk),
      exec_iff_effect.mpr (.biosReadHalts hb rfl hk), iff_of_false nofun (by simp [hb, hk.ne'])⟩

end Sys2Proof.Machine
end

section
/-! The CPU operations (42_cpu_ops.md R140 to R142): the next state of each is its constructor of `Effect`,
and `n` INC_PC commands one after the other add up. -/

namespace Sys2Proof.Machine

open Sys2Proof.Config

/-- INC_PC's new pc as a number (42_cpu_ops.md R142). -/
theorem advancedPc_toNat (pc : Word) : (advancedPc pc).toNat = (pc.toNat + 4) % 2 ^ 32 :=
  BitVec.toNat_add pc insnWidth

/-- The command word of INC_PC, whatever is on the buses that it ignores (30_encoding.md R83). -/
theorem decode_incPc_word (addr data : Word) (fw : FwAnswer) :
    decode ⟨0x2000#16, addr, data, fw⟩ = some .incPc :=
  decode_of_sameInputs_encode ⟨rfl, nofun, nofun, nofun⟩

/-- A running block that takes an INC_PC command. -/
theorem step_takeRequest_incPc {s : State} (hrun : s.halted = false) (addr data : Word) (fw : FwAnswer)
    (cs : List Command) : step (takeRequest (⟨0x2000#16, addr, data, fw⟩ :: cs) s) =
      .next (respondDone (writePc (advancedPc s.pc) (takeRequest cs s))) := by
  rw [step_takeRequest_of_some hrun (decode_incPc_word addr data fw)]
  exact exec_iff_effect.mpr .incPc

/-- Settles O32, by induction on the number of commands: the first advances pc by 4, and the others start
from there. -/
theorem repeatedIncPcAdvancesPcByFourEach : Obligations.RepeatedIncPcAdvancesPcByFourEach := by
  intro n
  induction n with
  | zero =>
    intro s _
    exact ⟨takeRequest [] s, issues_nil.mpr rfl, (Nat.mod_eq_of_lt s.pc.isLt).symm, rfl, rfl⟩
  | succ n ih =>
    intro s hrun
    obtain ⟨t, ht, hpc, hreq, hframe⟩ :=
      ih (respondDone (writePc (advancedPc s.pc) (takeRequest [] s))) hrun
    refine ⟨t, issues_cons_iff.mpr ⟨_, step_takeRequest_incPc hrun _ _ _ [], ht⟩, ?_, hreq, ?_⟩
    · rw [hpc, respondDone_pc, writePc_pc, advancedPc_toNat]
      omega
    · exact congrArg
        (fun u : State => { u with pc := s.pc, response := s.response, requests := s.requests }) hframe

/-- Settles O29. -/
theorem cpuResetRebuildsTheCpuAndTheMemory : Obligations.CpuResetRebuildsTheCpuAndTheMemory := by
  refine ⟨fun addr data fw => ?_, fun s _ => ?_⟩
  · exact decode_of_sameInputs_encode ⟨rfl, nofun, nofun, nofun⟩
  · exact ⟨_, exec_iff_effect.mpr .cpuReset, rfl, readGpr_zeroGprs (writePc resetVector s), rfl, rfl,
      Memory.read_newEmpty, rfl, rfl⟩

/-- Settles O30. -/
theorem clearRegsZeroesTheGprsAndNothingElse : Obligations.ClearRegsZeroesTheGprsAndNothingElse := by
  refine ⟨fun addr data fw => ?_, fun s _ => ?_⟩
  · exact decode_of_sameInputs_encode ⟨rfl, nofun, nofun, nofun⟩
  · exact ⟨_, exec_iff_effect.mpr .clearRegs, readGpr_zeroGprs s, rfl, rfl⟩

/-- Settles O31. -/
theorem incPcAddsFourModuloTheAddressSpace : Obligations.IncPcAddsFourModuloTheAddressSpace := by
  refine ⟨decode_incPc_word, fun s _ => ?_⟩
  refine ⟨_, exec_iff_effect.mpr .incPc, advancedPc_toNat s.pc, fun hpc => ?_, rfl, rfl⟩
  rw [respondDone_pc, writePc_pc, hpc]
  rfl

end Sys2Proof.Machine
end

section
/-! The register ports (42_cpu_ops.md R143 to R150): each answers OK in its one constructor of `Effect`. -/

namespace Sys2Proof.Machine

/-- The command words of the two GPR ports as 30_encoding.md R83 writes them. -/
theorem gprPortWord_eq_encodeCmd : ∀ i : BitVec 5,
    0b10000000000#11 ++ i = encodeCmd 0x8#4 i ∧ 0b10010000000#11 ++ i = encodeCmd 0x9#4 i := by
  decide

/-- Settles O34. -/
theorem gprReadAnswersTheRegister : Obligations.GprReadAnswersTheRegister := by
  refine ⟨fun i addr data fw => ?_, fun s i _ => ?_⟩
  · exact decode_of_sameInputs_encode ⟨(gprPortWord_eq_encodeCmd i).1, nofun, nofun, nofun⟩
  · exact exec_iff_effect.mpr .gprRead

/-- Settles O35, by the read-after-write laws of the register file. -/
theorem gprWriteStoresTheRegister : Obligations.GprWriteStoresTheRegister := by
  refine ⟨fun i addr data fw => ?_, fun s i v _ => ?_⟩
  · exact decode_of_sameInputs_encode ⟨(gprPortWord_eq_encodeCmd i).2, nofun, fun _ => rfl, nofun⟩
  · exact ⟨_, exec_iff_effect.mpr .gprWrite, readGpr_writeGpr_same s i v,
      fun _ hj => readGpr_writeGpr_other s v hj, rfl, rfl⟩

/-- Settles O37. -/
theorem hiPortsReadAndWriteHi : Obligations.HiPortsReadAndWriteHi := by
  refine ⟨fun addr data fw => ?_, fun addr data fw => ?_, fun s v _ => ⟨?_, ?_⟩⟩
  · exact decode_of_sameInputs_encode ⟨rfl, nofun, nofun, nofun⟩
  · exact decode_of_sameInputs_encode ⟨rfl, nofun, fun _ => rfl, nofun⟩
  · exact exec_iff_effect.mpr .hiRead
  · exact exec_iff_effect.mpr .hiWrite

/-- Settles O38. -/
theorem loPortsReadAndWriteLo : Obligations.LoPortsReadAndWriteLo := by
  refine ⟨fun addr data fw => ?_, fun addr data fw => ?_, fun s v _ => ⟨?_, ?_⟩⟩
  · exact decode_of_sameInputs_encode ⟨rfl, nofun, nofun, nofun⟩
  · exact decode_of_sameInputs_encode ⟨rfl, nofun, fun _ => rfl, nofun⟩
  · exact exec_iff_effect.mpr .loRead
  · exact exec_iff_effect.mpr .loWrite

/-- Settles O39: the commands that can change pc are those of `Effect.pc_cases`. -/
theorem pcPortsReadAndWritePc : Obligations.PcPortsReadAndWritePc := by
  refine ⟨fun addr data fw => ?_, fun addr data fw => ?_, fun s v _ => ⟨?_, ?_⟩, fun i s t hx hne => ?_⟩
  · exact decode_of_sameInputs_encode ⟨rfl, nofun, nofun, nofun⟩
  · exact decode_of_sameInputs_encode ⟨rfl, nofun, fun _ => rfl, nofun⟩
  · exact exec_iff_effect.mpr .pcRead
  · exact exec_iff_effect.mpr .pcWrite
  · rcases (effect_of_exec hx).pc_cases with hpc | ⟨hi, -⟩ | ⟨hi, -⟩ | hi
    · exact absurd hpc hne
    · exact .inl hi
    · exact .inr (.inl hi)
    · exact .inr (.inr ⟨_, hi⟩)

end Sys2Proof.Machine
end

section
/-! The outcomes of a step (60_exceptions.md R171 to R176): a halted block has none, a running block always
answers a next state, and a fatal fault and a refusal are recorded and change nothing else. -/

namespace Sys2Proof.Machine

/-! ### Acceptance (60_exceptions.md R173, R176) -/

/-- A halted block has no step (60_exceptions.md R173). -/
theorem step_of_halted {s : State} (h : s.halted = true) : step s = .fault .halted := by
  simp [step, accept, h]

/-- A run stops at a fault of its first step. -/
theorem run_of_step_fault {M : Host.Core} {s : M.State} {r : M.Fault} (h : M.step s = .fault r) (n : Nat) :
    M.run (n + 1) s = .fault r := by
  simp only [Host.Core.run, h]

/-- Settles O4: the first step of the run is the fault. -/
theorem haltedBlockTakesNoCommand : Obligations.HaltedBlockTakesNoCommand := by
  intro s cs n hhalt
  have hfirst : step (takeRequest cs s) = .fault .halted := step_of_halted hhalt
  exact run_of_step_fault (M := Sys2Proof.core) hfirst n

/-- Settles O5. -/
theorem stepRunsTheDecodedCommand : Obligations.StepRunsTheDecodedCommand := by
  intro s c rest i hrun hreq hd
  rw [← takeRequest_requests_self hreq]
  exact step_takeRequest_of_some hrun hd

/-- A running block answers a next state: idle, by a refusal, or by the decoded command's effect
(60_exceptions.md R176). -/
theorem step_answers_next {s : State} (hrun : s.halted = false) : ∃ t, step s = .next t := by
  cases hreq : s.requests with
  | nil => exact ⟨s, idleBlockKeepsItsState s hrun hreq⟩
  | cons c rest =>
    rw [← takeRequest_requests_self hreq]
    cases hd : decode c with
    | none => exact ⟨_, step_takeRequest_of_none hrun hd⟩
    | some i =>
      rw [step_takeRequest_of_some hrun hd]
      exact exec_answers_next i _

/-- No step changes the build parameter (10_state.md R36). -/
theorem step_biosGuard {s t : State} (h : step s = .next t) : t.biosGuard = s.biosGuard := by
  rcases step_cases h with ⟨-, -, rfl⟩ | ⟨c, rest, -, -, -, rfl⟩ | ⟨c, rest, i, -, -, -, hx⟩
  · rfl
  · rfl
  · exact (effect_of_exec hx).keeps_inputs.1

/-- Settles O8. -/
theorem runningBlockAlwaysAnswersItsNextCommand :
    Obligations.RunningBlockAlwaysAnswersItsNextCommand := by
  intro s hrun
  obtain ⟨t, h⟩ := step_answers_next hrun
  exact ⟨t, h, step_requests h, step_biosGuard h⟩

/-! ### A fatal fault and a refusal (60_exceptions.md R172, R175) -/

/-- Settles O44: of the cases of `Effect.fault_cases` only the two fatal faults halt a running block, and
`raiseFatal` is the record. -/
theorem fatalFaultIsRecordedAndPrecise : Obligations.FatalFaultIsRecordedAndPrecise := by
  intro i s t hrun hx ht
  rcases (effect_of_exec hx).fault_cases with
    ⟨hsame, -⟩ | ⟨addr, data, hi, hk, rfl⟩ | ⟨addr, hi, hg, hb, hk, rfl⟩
  · simp [hsame.halted, hrun] at ht
  · exact .inl ⟨addr, data, hi, hk, rfl⟩
  · exact .inr ⟨addr, hi, hg, Option.isSome_iff_ne_none.mp hb, hk, rfl⟩

/-- A command that answers REFUSED did nothing but refuse (60_exceptions.md R175). -/
theorem Effect.eq_refuse_of_status {i : Instr} {s t : State} (h : Effect i s t)
    (ht : t.response.status = .refused) : ∃ reason, t = refuse reason s := by
  rcases h.refusal_cases with ⟨-, hne⟩ | ⟨_, -, -, rfl⟩ | ⟨_, -, -, rfl⟩
  · exact absurd ht hne
  · exact ⟨_, rfl⟩
  · exact ⟨_, rfl⟩

/-- Settles O45: a reserved command word is the first reason, and the two reasons of a decoded command are
those of `Effect.refused_iff`. -/
theorem refusalHasThreeReasonsAndOneEffect : Obligations.RefusalHasThreeReasonsAndOneEffect := by
  intro s t c rest hreq h
  have hsticky : s.refused = true → t.refused = true := (statusKept_of_step h).refused
  obtain ⟨-, ⟨hd, rfl⟩ | ⟨i, hd, he⟩⟩ := step_cons_cases hreq h
  · exact ⟨iff_of_true rfl (.inl hd), fun _ => rfl, hsticky⟩
  · refine ⟨?_, fun hst => ?_, hsticky⟩
    · simp only [hd, Option.some.injEq, reduceCtorEq, false_or]
      exact he.refused_iff
    · obtain ⟨_, rfl⟩ := he.eq_refuse_of_status hst
      rfl

end Sys2Proof.Machine
end

section
/-! Power-on, read after write, and the order of CPU_RESET and BIOS_LOAD (70_reset_and_hazards.md R200,
R202, R203). -/

namespace Sys2Proof.Machine

/-! ### A read right after a write (70_reset_and_hazards.md R203) -/

/-- A command whose next state makes a read answer `v`, and then that read. -/
theorem exec_then_read {w r : Instr} {s t : State} {v : Word} (hw : Effect w s t)
    (hr : Effect r t (respondWord v t)) :
    ∃ t u, exec w s = .next t ∧ exec r t = .next u ∧ u.response = ⟨.ok, some v⟩ :=
  ⟨t, _, exec_iff_effect.mpr hw, exec_iff_effect.mpr hr, rfl⟩

/-- GPR_READ answers what the register is known to hold. -/
theorem Effect.gprRead_of_eq {s : State} {i : BitVec 5} {v : Word} (h : readGpr i s = v) :
    Effect (.gprRead i) s (respondWord v s) := h ▸ .gprRead

/-- MEM_READ in range answers what the Memory is known to hold. -/
theorem Effect.memRead_of_eq {s : State} {addr v : Word} (hk : addr.toNat < Config.memWords)
    (h : s.mem.read addr.toNat = v) : Effect (.memRead addr) s (respondWord v s) :=
  h ▸ .memReadWord hk

/-- Settles O41, by the read-after-write laws of the register file and of the Memory. -/
theorem readRightAfterWriteSeesTheValue : Obligations.ReadRightAfterWriteSeesTheValue := by
  refine fun s v => ⟨fun i => ?_, ?_, ?_, ?_, fun addr hk => ?_⟩
  · exact exec_then_read .gprWrite (.gprRead_of_eq (readGpr_writeGpr_same s i v))
  · exact exec_then_read .hiWrite .hiRead
  · exact exec_then_read .loWrite .loRead
  · exact exec_then_read .pcWrite .pcRead
  · exact exec_then_read (.memWriteStores hk) (.memRead_of_eq hk (Memory.read_write_same s.mem _ v))

/-! ### CPU_RESET and BIOS_LOAD (70_reset_and_hazards.md R202) -/

/-- What CPU_RESET rebuilds, before it responds (42_cpu_ops.md R140); `effect_cpuReset` ties it to `exec`. -/
def rebuildCpu (s : State) : State :=
  setMemory Memory.newEmpty (writeLo 0#32 (writeHi 0#32 (zeroGprs (writePc Config.resetVector s))))

/-- CPU_RESET rebuilds and answers OK. -/
theorem effect_cpuReset (s : State) : Effect .cpuReset s (respondDone (rebuildCpu s)) := .cpuReset

/-- BIOS_LOAD reads nothing that CPU_RESET writes but the response buses, which it overwrites: after a
CPU_RESET it does what it would have done before, to the rebuilt block. -/
theorem Effect.biosLoad_after_cpuReset {fw : FwAnswer} {s u : State} (h : Effect (.biosLoad fw) s u) :
    Effect (.biosLoad fw) (respondDone (rebuildCpu s)) (rebuildCpu u) := by
  cases h with
  | biosLoadRefused hb => exact .biosLoadRefused hb
  | biosLoadOpenError hb => exact .biosLoadOpenError hb
  | biosLoadImage hb hl => exact .biosLoadImage (s := respondDone (rebuildCpu s)) hb hl
  | biosLoadReadError hb hl => exact .biosLoadReadError hb hl
  | biosLoadShort hb hl => exact .biosLoadShort hb hl

/-- Settles O43: both orders end in the rebuilt block of the BIOS_LOAD's next state, up to the response. -/
theorem cpuResetAndBiosLoadCommute : Obligations.CpuResetAndBiosLoadCommute := by
  intro s fw
  obtain ⟨u, hu, he⟩ := exists_effect (.biosLoad fw) s
  exact ⟨respondDone (rebuildCpu s), rebuildCpu u, u, respondDone (rebuildCpu u),
    exec_iff_effect.mpr (effect_cpuReset s), exec_iff_effect.mpr he.biosLoad_after_cpuReset, hu,
    exec_iff_effect.mpr (effect_cpuReset u), rfl⟩

/-! ### Power-on (70_reset_and_hazards.md R200) -/

/-- Settles O1: power-on's registers and Memory are those of the zero-fills. -/
theorem powerOnStateHoldsTheSpecifiedValues : Obligations.PowerOnStateHoldsTheSpecifiedValues :=
  ⟨rfl, readGpr_zeroGprs State.reset, rfl, rfl, Memory.read_newEmpty, rfl, rfl, rfl, rfl, rfl,
    fun _ => step_of_halted⟩

end Sys2Proof.Machine
end
